-- ==== Sys2Proof/Word.lean ====
section
/-! DEFINITION. The widths of the SC6: bytes, fetched records, and the numbers of its contexts, rings, slots, channels,
sets, ways and interrupt vectors (spec/00_scope.md, section 0.8). -/

namespace Sys2Proof

/-- One byte of a frame, of a host buffer or of a media link message. -/
abbrev Byte := BitVec 8

/-- The 64 bytes of a submission record, the byte at offset `k` in bits `8k .. 8k+7` (section 0.5: little-endian). -/
abbrev Record := BitVec 512

/-- A context number, 0..127 (R104). -/
abbrev CtxId := Fin 128

/-- A ring number, 0..15 (R124, R125). -/
abbrev RingId := Fin 16

/-- A media slot number, 0..31 (R85). -/
abbrev SlotId := Fin 32

/-- A transfer channel number, 0..31 (section 2.5). -/
abbrev ChannelId := Fin 32

/-- A set number, 0..4,095 (R1). -/
abbrev SetId := Fin 4096

/-- A way of a set, 0..7 (R1). -/
abbrev WayId := Fin 8

/-- An interrupt vector, 0..15 (R168). -/
abbrev VectorId := Fin 16

end Sys2Proof
end

