-- ==== Sys2Proof/Syntax.lean ====
section
/-! DEFINITION. The commands of the SC6: one constructor per row of spec/opcode_table.json, in the table's order.
The table gives no row any bits; the operands here are what the rule of the row says the event carries. A row that a
submission record's arrival makes (READ .. OPCODE_NAMES_NO_COMMAND) has no operand: the record that arrives is the head of the
intake queue (R135), which FETCH_COMPLETES put there. `permitted` says whether the host link permits a message on the
ring's vector in that event (R168). -/

namespace Sys2Proof

inductive Instr where
  /-- READ: the record at the head of the intake queue arrives (R106, R114). -/
  | read
  /-- WRITE arrives (R114). -/
  | write
  /-- A range FLUSH arrives (R68). -/
  | flush
  /-- FLUSH ALL arrives (R72). -/
  | flushAll
  /-- DISCARD arrives (R33). -/
  | discard
  /-- PIN arrives (R32). -/
  | pin
  /-- UNPIN arrives (R34). -/
  | unpin
  /-- CREATE SUBMISSION RING arrives (R127). -/
  | createSubmissionRing
  /-- CREATE COMPLETION RING arrives (R128). -/
  | createCompletionRing
  /-- DELETE SUBMISSION RING arrives (R137). -/
  | deleteSubmissionRing
  /-- DELETE COMPLETION RING arrives (R139). -/
  | deleteCompletionRing
  /-- SET RING OPTIONS arrives (R147). -/
  | setRingOptions (permitted : Bool)
  /-- SET CLEANER arrives (R57). -/
  | setCleaner
  /-- SET MEDIA PARAMS arrives (R101). -/
  | setMediaParams
  /-- REPORT GEOMETRY arrives (R118). -/
  | reportGeometry
  /-- AWAIT NOTICE arrives (R152). -/
  | awaitNotice
  /-- READ SET arrives (R164). -/
  | readSet
  /-- UNFENCE SET arrives (R162). -/
  | unfenceSet
  /-- ABORT arrives (R119). -/
  | abort
  /-- A record arrives whose opcode names no command of its ring's set (R107). -/
  | opcodeNamesNoCommand
  /-- ENGINE CONTROL is written with ENABLE 1 and SOFT_RESET 0, and these values of the other fields (R174). -/
  | enable (quiesceBit flushBit : Bool)
  /-- ENGINE CONTROL is written with QUIESCE 1 and SOFT_RESET 0 (R175). -/
  | quiesce (enableBit flushBit : Bool)
  /-- ENGINE CONTROL is written with QUIESCE 0 and SOFT_RESET 0 (R177). -/
  | quiesceCleared (enableBit flushBit : Bool)
  /-- ENGINE CONTROL is written with FLUSH_ON_QUIESCE at `flushBit` and SOFT_RESET 0 (R176). -/
  | flushOnQuiesce (flushBit enableBit quiesceBit : Bool)
  /-- ENGINE CONTROL is written with SOFT_RESET 1; the other fields of the write are ignored (R170, R179). -/
  | softReset (enableBit quiesceBit flushBit : Bool)
  /-- The whole 32-bit value is written to SR`ring` TAIL (R129, R185). -/
  | srTailWrite (ring : RingId) (value : BitVec 32)
  /-- The whole 32-bit value is written to CR`ring` HEAD (R130, R185). -/
  | crHeadWrite (ring : RingId) (value : BitVec 32)
  /-- A write of `size` bytes at `offset` of the register window (R169). -/
  | registerWrite (offset size : Nat) (value : BitVec 64)
  /-- The host link reports a reset (R180). -/
  | hostLinkReset
  /-- Power is first applied (R181). -/
  | powerOn
  /-- The host link permits messages on the vector (R168). -/
  | vectorUnmasked (vector : VectorId)
  /-- The coalescing timer of CR`ring` expires (R145). -/
  | coalescingTimerExpires (ring : RingId) (permitted : Bool)
  /-- The fetch in flight returns these 64 bytes (R135, R186). -/
  | fetchCompletes (record : Record)
  /-- The host link refuses the read of the fetch in flight (R136). -/
  | fetchFails
  /-- The completion write in flight on CR`ring` is accepted (R141). -/
  | completionWriteSucceeds (ring : RingId) (permitted : Bool)
  /-- The completion write in flight on CR`ring` is refused (R142). -/
  | completionWriteFails (ring : RingId)
  /-- The block operation of this context and offset, awaiting lookup, is looked up (R4). -/
  | lookup (ctx : CtxId) (offset : Nat)
  /-- The check code of this way goes bad (R5). -/
  | checkCodeGoesBad (set : SetId) (way : WayId)
  /-- The read-out on this channel has issued all its writes, none refused (R37). -/
  | readOutCompletes (channel : ChannelId)
  /-- The host link refuses a write of the read-out on this channel (R38). -/
  | readOutRefused (channel : ChannelId)
  /-- Read data returns for the write-in on this channel: the bytes from `position` on (R39). -/
  | writeInData (channel : ChannelId) (position : Nat) (data : List Byte)
  /-- A read of the write-in on this channel is refused or reported failed; of the reads it had issued, reads of
  `unanswered` bytes are still unanswered after this (R39, R41). -/
  | writeInReadFailed (channel : ChannelId) (unanswered : Nat)
  /-- The last byte of the draw in this slot goes onto the media link (R61). -/
  | drawCompletes (slot : SlotId)
  /-- A response message arrives whole (R89, R184). -/
  | response (message : List Byte)
  /-- A partner message arrives that is neither a response nor an ANNOUNCE of the right length (R184). -/
  | unknownMessage (message : List Byte)
  /-- The response timer of this slot expires (R93). -/
  | responseTimeout (slot : SlotId)
  /-- The busy delay of this slot expires (R94). -/
  | busyDelayExpires (slot : SlotId)
  /-- An ANNOUNCE message arrives whole (R82, R184). -/
  | announce (message : List Byte)
  /-- The link layer reports link loss (R99). -/
  | linkLoss
  /-- The retag walk visits its next set (R79). -/
  | retagWalkVisit
  /-- The notice write of this context is accepted (R154). -/
  | noticeWriteSucceeds (ctx : CtxId)
  /-- The notice write of this context is refused (R154). -/
  | noticeWriteFails (ctx : CtxId)
  /-- The snapshot write of this context is accepted (R164). -/
  | snapshotWriteSucceeds (ctx : CtxId)
  /-- The snapshot write of this context is refused (R164). -/
  | snapshotWriteFails (ctx : CtxId)
  /-- The geometry record write of this context is accepted (R118). -/
  | geometryWriteSucceeds (ctx : CtxId)
  /-- The geometry record write of this context is refused (R118). -/
  | geometryWriteFails (ctx : CtxId)
  /-- The host link becomes usable again after a reset (R180). -/
  | hostLinkUsable
deriving DecidableEq, Repr

end Sys2Proof
end

