-- ==== Sys2Proof/Config.lean ====
section
/-! DEFINITION. The figures of the part (spec/00_scope.md, section 0.8). No value of the spec is left to an
implementation, so there is no free value here. -/

namespace Sys2Proof.Config

/-- Block and frame size in bytes (section 0.1). -/
@[simp] abbrev blockBytes : Nat := 4096
/-- Sets of the directory (R1). -/
@[simp] abbrev setCount : Nat := 4096
/-- Lines of the directory (R1). -/
@[simp] abbrev lineCount : Nat := 32768
/-- Most ways of one set with pins above 0 (R10). -/
@[simp] abbrev maxPinnedWays : Nat := 6
/-- Most pins of one line (R10). -/
@[simp] abbrev maxPins : Nat := 255
/-- Block operations of the pool (R113). -/
@[simp] abbrev poolSize : Nat := 1024
/-- Contexts kept back for SR0 (R104). -/
@[simp] abbrev adminReserve : Nat := 8
/-- Most blocks of one command (R103). -/
@[simp] abbrev maxBlockCount : Nat := 256
/-- Entries of the flush-all queue (R72). -/
@[simp] abbrev flushAllEntries : Nat := 16
/-- Entries of the notice request list (R152). -/
@[simp] abbrev noticeEntries : Nat := 4
/-- Most cleans in flight (R86). -/
@[simp] abbrev cleanCeiling : Nat := 16
/-- Cleans that run ahead of fills (R86). -/
@[simp] abbrev cleanFloor : Nat := 4
/-- The busy delay in microseconds (R92). -/
@[simp] abbrev busyDelay : Nat := 100
/-- Largest capacity in blocks, 2^36 (R82). -/
@[simp] abbrev maxCapacity : Nat := 68719476736
/-- First host address above the 64-bit address space, 2^64 (R108). -/
@[simp] abbrev hostTop : Nat := 18446744073709551616
/-- High mark after reset (R56). -/
@[simp] abbrev defaultHigh : Nat := 8192
/-- Low mark after reset (R56). -/
@[simp] abbrev defaultLow : Nat := 4096
/-- Response timeout after reset, in milliseconds (R102). -/
@[simp] abbrev defaultTimeout : Nat := 200
/-- Retry limit after reset (R102). -/
@[simp] abbrev defaultRetry : Nat := 3
/-- A fault count stops here (R150). -/
@[simp] abbrev maxFaultCount : Nat := 65535
/-- A fence record's counts stop here (R160, R161). -/
@[simp] abbrev maxFenceCount : Nat := 255

end Sys2Proof.Config
end

