-- ==== Sys2Proof/Machine/State.lean ====
section
/-! DEFINITION. The state of the SC6, block by block as section 0.2 names its owners, the reasons a step could stop, and
the state after power-on. Everything is plain data. -/

namespace Sys2Proof.Machine

/-! ### Names shared by several blocks -/

/-- One of the two labels of unclean data (section 3.1). -/
inductive Epoch where
  | zero
  | one
deriving DecidableEq, Repr

/-- A line is named by its set and its way: line `8 * set + way` (R1). -/
structure LineId where
  set : SetId
  way : WayId
deriving DecidableEq, Repr

/-- Status codes (Table 9.5). -/
inductive Status where
  | ok
  | discarded
  | pinLimit
  | pinUnderflow
  | pinConflict
  | mediaBusy
  | mediaTimeout
  | mediaFault
  | offline
  | hostBusError
  | fenced
  | aborted
  | invalidOpcode
  | invalidField
  | outOfRange
  | duplicateId
  | busy
  | stateConflict
deriving DecidableEq, Repr

/-- The commands of Tables 5.2 and 5.3. -/
inductive CommandKind where
  | read
  | write
  | flush
  | flushAll
  | discard
  | pin
  | unpin
  | createSr
  | createCr
  | deleteSr
  | deleteCr
  | setRingOptions
  | setCleaner
  | setMediaParams
  | reportGeometry
  | awaitNotice
  | readSet
  | unfenceSet
  | abort
deriving DecidableEq, Repr

/-- The kinds of block operation (R113). -/
inductive BopKind where
  | read
  | write
  | flush
  | discard
  | pin
  | unpin
deriving DecidableEq, Repr

/-- A block operation in use (R113). Its place is the list or transfer that holds this value; a free one is held nowhere.
DEDUCED (notes/assumptions/21.md). -/
structure Bop where
  ctx : CtxId
  offset : Nat
  block : Nat
  kind : BopKind
  durable : Bool
deriving DecidableEq, Repr

/-! ### Line Directory (chapter 1) -/

inductive FillSource where
  | media
  | host
deriving DecidableEq, Repr

/-- Line states with the fields that are present in each (Tables 1.1 and 1.2). -/
inductive LineState where
  | invalid
  | filling (block : Nat) (source : FillSource)
  | clean (block : Nat)
  | dirty (block : Nat) (epoch : Epoch)
  | cleaning (block : Nat) (epoch : Epoch)
  | redirty (block : Nat) (epoch redirtyEpoch : Epoch)
deriving DecidableEq, Repr

/-- The mark of a clean watch list entry (R67). -/
inductive WatchMark where
  | current
  | next
deriving DecidableEq, Repr

structure Watcher where
  bop : Bop
  mark : WatchMark
deriving DecidableEq, Repr

/-- One line of the directory (Table 1.1), with whether the check code of its block field has gone bad (R5). -/
structure Line where
  state : LineState
  checkBad : Bool
  pins : Nat
  readers : Nat
  exclusive : Bool
  accessQueue : List Bop
  watchers : List Watcher
  cleanWanted : Bool
deriving DecidableEq, Repr

/-- A set's fence record (Table 1.5). The set is fenced exactly while `failedWay` is present. `releasing` names the context
of the UNFENCE SET that waits, and is present exactly while the releasing flag is set. -/
structure FenceRecord where
  failedWay : Option WayId
  lost : Bool
  salvaged : Nat
  salvageFailures : Nat
  releasing : Option CtxId
deriving DecidableEq, Repr

/-- One set: its 8 ways, its recency order (front first), its set wait list (oldest first) and its fence record. -/
structure CacheSet where
  ways : Vector Line 8
  recency : List WayId
  waitList : List Bop
  fence : FenceRecord
deriving DecidableEq, Repr

/-- The 4,096 sets, by set number: only the sets that differ from their reset value are listed, in ascending order. -/
structure LineDirectory where
  sets : List (Nat × CacheSet)
deriving DecidableEq, Repr

/-! ### Write-Back Unit (Table 3.1) -/

/-- The record of the active flush-all (R72). -/
structure FlushAllRecord where
  oldEpoch : Epoch
  failures : Nat
  worst : Option Status
deriving DecidableEq, Repr

/-- A retag walk in progress (R78). -/
structure RetagWalk where
  nextSet : SetId
  epoch : Epoch
deriving DecidableEq, Repr

structure WriteBackUnit where
  currentEpoch : Epoch
  unclean0 : Nat
  unclean1 : Nat
  dirtyOrder : List LineId
  urgent : List LineId
  pressure : Bool
  highMark : Nat
  lowMark : Nat
  activeFlushAll : Option FlushAllRecord
  walk : Option RetagWalk
deriving DecidableEq, Repr

/-! ### Media Port (chapter 4) -/

inductive LinkState where
  | down
  | up
deriving DecidableEq, Repr

inductive SlotState where
  | drawing
  | awaiting
  | backoff
  | redrawWait
deriving DecidableEq, Repr

inductive SlotKind where
  | fill
  | clean
deriving DecidableEq, Repr

/-- A media slot that is not FREE (Table 4.2). The timer holds the time it was started with, in microseconds.
DESIGN CHOICE for the timer (notes/assumptions/7.md). -/
structure MediaSlot where
  state : SlotState
  kind : SlotKind
  block : Nat
  line : LineId
  attempt : Nat
  timeout : Nat
  retryLimit : Nat
  timer : Option Nat
  orphan : Bool
deriving DecidableEq, Repr

/-- What the SC6 puts onto the media link (R84): a READ request, the header of a WRITE request when its draw begins, and the
block data of that request when its draw has completed. -/
inductive MediaRequest where
  | read (header : BitVec 128)
  | writeHeader (header : BitVec 128)
  | writeData (slot : SlotId) (attempt : Nat) (data : List Byte)
deriving DecidableEq, Repr

/-- The Media Port; `none` in `slots` is FREE. `requests` is the stream of what was sent, oldest first (the model's field). -/
structure MediaPort where
  link : LinkState
  capacity : Nat
  slots : Vector (Option MediaSlot) 32
  fillQueue : List LineId
  timeout : Nat
  retryLimit : Nat
  requests : List MediaRequest
deriving DecidableEq, Repr

/-! ### Fault Unit (chapter 7) -/

inductive RingKind where
  | sr
  | cr
deriving DecidableEq, Repr

inductive RingFaultReason where
  | badIndex
  | fetchError
  | postError
deriving DecidableEq, Repr

inductive LinkLossReason where
  | lost
  | reAnnounce
deriving DecidableEq, Repr

/-- The transfer kinds of a HOST_BUS record (Table 7.1). -/
inductive HostTransferKind where
  | readOut
  | writeIn
  | notice
  | snapshot
  | geometry
deriving DecidableEq, Repr

/-- A first-occurrence record (Table 7.1); the constructor is the class. -/
inductive FaultRecord where
  | integrity (set : SetId) (failedWay : WayId) (lost : Bool)
  | ring (kind : RingKind) (ring : RingId) (reason : RingFaultReason)
  | link (reason : LinkLossReason) (slotsFailed : Nat)
  | media (block : Nat) (kind : SlotKind) (result : Status)
  | hostBus (address : Nat) (kind : HostTransferKind) (sr : RingId) (commandId : Nat)
deriving DecidableEq, Repr

/-- One class of the fault capture table (R150). -/
structure CaptureEntry where
  count : Nat
  first : Option FaultRecord
  unreported : Bool
deriving DecidableEq, Repr

/-- The capture table, classes 0..4 in the order of Table 7.1. -/
structure FaultUnit where
  entries : Vector CaptureEntry 5
deriving DecidableEq, Repr

/-- The contents of a notice being written (R153). -/
structure Notice where
  faultClass : Fin 5
  count : Nat
  first : Option FaultRecord
deriving DecidableEq, Repr

/-! ### Command Unit (chapter 5) -/

/-- The states of a context that holds a command (R104); FREE and FETCHING are constructors of `Context`. -/
inductive ContextState where
  | splitting
  | running
  | executing
  | posting
deriving DecidableEq, Repr

/-- A context that holds a command (R104). `record` is the copy taken at arrival (R103), from which every field of the command
is read. `reserved` says whether the command's fetch reserved a place in its completion ring (R135, R143). `notice` is
the class delivered to an AWAIT NOTICE, while its notice is written (R153). -/
structure Command where
  state : ContextState
  sr : RingId
  reserved : Bool
  record : Record
  created : Nat
  outstanding : Nat
  worst : Status
  failing : Option Nat
  result : BitVec 32
  aborting : Bool
  notice : Option Notice
deriving DecidableEq, Repr

inductive Context where
  | free
  | fetching (sr : RingId) (reserved : Bool)
  | holding (command : Command)
deriving DecidableEq, Repr

/-- The Command Unit (Table 5.1). `awaitingLookup` holds the block operations whose place is 'awaiting lookup' (R114). -/
structure CommandUnit where
  contexts : Vector Context 128
  awaitingLookup : List Bop
  splitQueue : List CtxId
  flushAllQueue : List CtxId
  noticeRequests : List CtxId
deriving DecidableEq, Repr

/-! ### Ring Unit (chapter 6) -/

inductive SrState where
  | active
  /-- DRAINING, with the unfetched count and the context of the DELETE that waits (Table 6.1). -/
  | draining (unfetched : Nat) (pendingDelete : CtxId)
  | faulted
deriving DecidableEq, Repr

/-- A submission ring that is not UNUSED (Table 6.1). -/
structure SubmissionRing where
  state : SrState
  base : Nat
  entries : Nat
  head : Nat
  tail : Nat
  boundCr : RingId
  weight : Nat
  fetchInFlight : Bool
deriving DecidableEq, Repr

inductive CrState where
  | active
  | faulted
deriving DecidableEq, Repr

/-- A completion ring that is not UNUSED (Table 6.2). `writeInFlight` names the context whose record is being written, and is
present exactly while the flag is set. The timer holds the time it was started with, in microseconds. -/
structure CompletionRing where
  state : CrState
  base : Nat
  entries : Nat
  tail : Nat
  head : Nat
  phase : Bool
  reserved : Nat
  postQueue : List CtxId
  writeInFlight : Option CtxId
  vector : VectorId
  interruptsOn : Bool
  coalesceCount : Nat
  coalesceTime : Nat
  unsignalled : Nat
  timer : Option Nat
deriving DecidableEq, Repr

/-- The fetch in flight (R134). -/
structure Fetch where
  ctx : CtxId
  sr : RingId
deriving DecidableEq, Repr

/-- A fetched record on its way to the Command Unit (R135). -/
structure FetchedRecord where
  ctx : CtxId
  record : Record
deriving DecidableEq, Repr

/-- The Ring Unit; `none` in a ring table is UNUSED, and `fetch` is absent while the fetch engine is idle. -/
structure RingUnit where
  srs : Vector (Option SubmissionRing) 16
  crs : Vector (Option CompletionRing) 16
  fetch : Option Fetch
  intake : List FetchedRecord
  currentSr : RingId
  grantsUsed : Nat
deriving DecidableEq, Repr

/-! ### Host Port (section 2.5 and chapter 8) -/

inductive TransferKind where
  | readOut
  | writeIn
deriving DecidableEq, Repr

/-- A transfer (Table 2.2). For a write-in, `gather` lists the bytes received by their position, `received` counts them,
`outstanding` counts the bytes of issued host reads that are unanswered, and `error` is the error flag.
DESIGN CHOICE for counting bytes (notes/assumptions/10.md). -/
structure Transfer where
  kind : TransferKind
  bop : Bop
  line : LineId
  address : Nat
  gather : List Host.Cell
  received : Nat
  outstanding : Nat
  error : Bool
deriving DecidableEq, Repr

/-- The outbound writes of the Host Port (R166), each as issued. `readOutRefused` stands for the writes of a read-out that
the host link refused one of: which of its bytes landed is undefined (R38). -/
inductive HostWrite where
  | readOut (address : Nat) (data : List Byte)
  | readOutRefused (address : Nat)
  | completion (ring : RingId) (address : Nat) (record : BitVec 128)
  | notice (address : Nat) (record : BitVec 512)
  | geometry (address : Nat) (record : BitVec 512)
  | snapshot (address : Nat) (record : BitVec 2048)
  | message (vector : VectorId)
deriving DecidableEq, Repr

/-- The reads of host memory that the Host Port issues (R166). -/
inductive HostRead where
  | fetch (address : Nat)
  | writeIn (address : Nat)
deriving DecidableEq, Repr

/-- The Host Port: data mover (Table 2.2; `none` is a FREE channel), interrupt emitter, admin ring registers, whether the host
link is usable (R180), and the streams of writes and reads issued, oldest first (the model's fields).
DESIGN CHOICE for the last three fields (notes/assumptions/8.md, 9.md). -/
structure HostPort where
  channels : Vector (Option Transfer) 32
  channelQueue : List Transfer
  vectorPending : Vector Bool 16
  adminSubmissionBase : BitVec 64
  adminCompletionBase : BitVec 64
  adminRingSizes : BitVec 32
  linkUsable : Bool
  writes : List HostWrite
  reads : List HostRead
deriving DecidableEq, Repr

/-! ### Engine Control (section 8.3) -/

inductive EngineState where
  | disabled
  | running
  | quiescing
  | quiesced
  | halted
deriving DecidableEq, Repr

/-- Engine Control. `quiesceAtHalt` is the value QUIESCE had when the engine halted, which a read returns in HALTED (R170). -/
structure EngineControl where
  state : EngineState
  flushOnQuiesce : Bool
  enableRefused : Bool
  quiesceResidue : Bool
  quiesceAtHalt : Bool
deriving DecidableEq, Repr

/-! ### The whole part -/

/-- The SC6. `frames` is the frame store: byte `k` of frame `n` at address `4096 * n + k`, in canonical form. `pending` is
the queue of commands that wait, first in, first out (the model's field). -/
structure State where
  directory : LineDirectory
  writeBack : WriteBackUnit
  media : MediaPort
  faults : FaultUnit
  commands : CommandUnit
  rings : RingUnit
  host : HostPort
  engine : EngineControl
  frames : List Host.Cell
  pending : List Instr
deriving DecidableEq, Repr

/-- No command of the SC6 stops the machine: what the spec calls a fault is recorded in the capture table and the part
goes on (R150). Hence there is no reason to stop, and nothing raises one. -/
inductive Fault where
deriving DecidableEq, Repr

/-- Reasons to refuse a command. -/
inductive Refusal where
  /-- A command that has no meaning yet, raised by `exec` only; safe. No arm of `exec` uses it. -/
  | notModelled (mnemonic : String)
deriving DecidableEq, Repr

/-- A line after reset (Table 1.6). -/
def Line.reset : Line :=
  { state := .invalid, checkBad := false, pins := 0, readers := 0, exclusive := false, accessQueue := [], watchers := [],
    cleanWanted := false }

/-- A fence record after reset (Table 1.6). -/
def FenceRecord.reset : FenceRecord :=
  { failedWay := none, lost := false, salvaged := 0, salvageFailures := 0, releasing := none }

/-- A set after reset: every way INVALID, way 0 first through way 7 last (Table 1.6). -/
def CacheSet.reset : CacheSet :=
  { ways := Vector.replicate 8 Line.reset, recency := [0, 1, 2, 3, 4, 5, 6, 7], waitList := [], fence := FenceRecord.reset }

/-- Table 3.6. The walk's next set is held only during a walk (Table 3.1), so the reset value 0 that Table 3.6 gives it with no walk
is the next set at which every walk starts (R78). DEDUCED (notes/assumptions/24.md). -/
def WriteBackUnit.reset : WriteBackUnit :=
  { currentEpoch := .zero, unclean0 := 0, unclean1 := 0, dirtyOrder := [], urgent := [], pressure := false,
    highMark := Config.defaultHigh, lowMark := Config.defaultLow, activeFlushAll := none, walk := none }

/-- Table 4.5, power-on. -/
def MediaPort.reset : MediaPort :=
  { link := .down, capacity := 0, slots := Vector.replicate 32 none, fillQueue := [], timeout := Config.defaultTimeout,
    retryLimit := Config.defaultRetry, requests := [] }

/-- A class with no occurrence (Table 7.2). -/
def CaptureEntry.reset : CaptureEntry := { count := 0, first := none, unreported := false }

/-- Table 7.2. -/
def FaultUnit.reset : FaultUnit := { entries := Vector.replicate 5 CaptureEntry.reset }

/-- Table 5.8. -/
def CommandUnit.reset : CommandUnit :=
  { contexts := Vector.replicate 128 .free, awaitingLookup := [], splitQueue := [], flushAllQueue := [],
    noticeRequests := [] }

/-- Table 6.3. -/
def RingUnit.reset : RingUnit :=
  { srs := Vector.replicate 16 none, crs := Vector.replicate 16 none, fetch := none, intake := [], currentSr := 1,
    grantsUsed := 0 }

/-- Section 2.5 (channels), R168 (emitter), R172 (admin registers), power-on. -/
def HostPort.reset : HostPort :=
  { channels := Vector.replicate 32 none, channelQueue := [], vectorPending := Vector.replicate 16 false,
    adminSubmissionBase := 0, adminCompletionBase := 0, adminRingSizes := 0, linkUsable := true, writes := [],
    reads := [] }

/-- R170, R173, R179: DISABLED, the control fields 0 and the flags clear. -/
def EngineControl.reset : EngineControl :=
  { state := .disabled, flushOnQuiesce := false, enableRefused := false, quiesceResidue := false, quiesceAtHalt := false }

/-- The SC6 after power-on (R181), with no command waiting. -/
def State.reset : State :=
  { directory := { sets := [] }, writeBack := .reset, media := .reset, faults := .reset, commands := .reset,
    rings := .reset, host := .reset, engine := .reset, frames := [], pending := [] }

end Sys2Proof.Machine
end

