-- ==== Sys2Proof/Machine/Operands.lean ====
section
/-! DEFINITION. What the SC6 reads from outside: the fields of a submission record (Tables 9.1 to 9.3), intake checks 1 and
2 (R107, R108, R182), and the messages of the link partner (Table 9.12, R184). -/

namespace Sys2Proof.Machine

/-! ### Submission records -/

namespace Rec

/-- The little-endian field of `size` bytes at `offset` (section 9.1). -/
def field (r : Record) (offset size : Nat) : Nat := r.toNat / 256 ^ offset % 256 ^ size

def opcode (r : Record) : Nat := field r 0 1
def flags (r : Record) : Nat := field r 1 1
def commandId (r : Record) : Nat := field r 2 2
def durable (r : Record) : Bool := flags r % 2 == 1

def blockCount (r : Record) : Nat := field r 4 2
def firstBlock (r : Record) : Nat := field r 8 8
def bufferAddress (r : Record) : Nat := field r 16 8

def targetRing (r : Record) : Nat := field r 4 1
def boundCr (r : Record) : Nat := field r 5 1
def ringKind (r : Record) : Nat := field r 5 1
def vector (r : Record) : Nat := field r 5 1
def weight (r : Record) : Nat := field r 6 1
/-- The coalesce count of CREATE COMPLETION RING. -/
def createCoalesceCount (r : Record) : Nat := field r 6 1
/-- The coalesce count of SET RING OPTIONS with kind CR. -/
def setCoalesceCount (r : Record) : Nat := field r 12 1
def interruptsOn (r : Record) : Nat := field r 7 1
def ringEntries (r : Record) : Nat := field r 8 2
def coalesceTime (r : Record) : Nat := field r 10 2
def ringBase (r : Record) : Nat := field r 16 8
def setNumber (r : Record) : Nat := field r 8 2
def targetCommandId (r : Record) : Nat := field r 8 2
def highMark (r : Record) : Nat := field r 8 4
def lowMark (r : Record) : Nat := field r 12 4
def mediaTimeout (r : Record) : Nat := field r 8 4
def retryLimit (r : Record) : Nat := field r 12 1

/-- A field that held 0..15 in a record that passed intake, as a ring number. -/
def ringId (n : Nat) : RingId := Fin.ofNat 16 n

/-- The set number of a record that passed intake. -/
def setId (r : Record) : SetId := Fin.ofNat 4096 (setNumber r)

/-- Every byte of these (offset, size) areas is zero (R182). -/
def zeroAt (r : Record) (areas : List (Nat × Nat)) : Bool := areas.all fun a => field r a.1 a.2 == 0

end Rec

/-- The command an opcode names (section 9.1). -/
def CommandKind.ofOpcode : Nat → Option CommandKind
  | 0x01 => some .read
  | 0x02 => some .write
  | 0x03 => some .flush
  | 0x04 => some .flushAll
  | 0x05 => some .discard
  | 0x06 => some .pin
  | 0x07 => some .unpin
  | 0x40 => some .createSr
  | 0x41 => some .createCr
  | 0x42 => some .deleteSr
  | 0x43 => some .deleteCr
  | 0x44 => some .setRingOptions
  | 0x45 => some .setCleaner
  | 0x46 => some .setMediaParams
  | 0x47 => some .reportGeometry
  | 0x48 => some .awaitNotice
  | 0x49 => some .readSet
  | 0x4A => some .unfenceSet
  | 0x4B => some .abort
  | _ => none

/-- Whether the command belongs to the admin set of SR0 (section 5.1). -/
def CommandKind.isAdmin : CommandKind → Bool
  | .read | .write | .flush | .flushAll | .discard | .pin | .unpin => false
  | .createSr | .createCr | .deleteSr | .deleteCr | .setRingOptions | .setCleaner | .setMediaParams | .reportGeometry
  | .awaitNotice | .readSet | .unfenceSet | .abort => true

/-- The kind of block operation a range command splits into (Table 5.2); absent for a command that is not split. -/
def CommandKind.bopKind : CommandKind → Option BopKind
  | .read => some .read
  | .write => some .write
  | .flush => some .flush
  | .discard => some .discard
  | .pin => some .pin
  | .unpin => some .unpin
  | .flushAll | .createSr | .createCr | .deleteSr | .deleteCr | .setRingOptions | .setCleaner | .setMediaParams
  | .reportGeometry | .awaitNotice | .readSet | .unfenceSet | .abort => none

/-- Intake check 1 (R107): the command that a record of ring `sr` holds, absent when its opcode names no command of that
ring's set. -/
def commandOf (sr : RingId) (r : Record) : Option CommandKind :=
  match CommandKind.ofOpcode (Rec.opcode r) with
  | some k => if k.isAdmin = (sr == 0) then some k else none
  | none => none

/-- A buffer of `bytes` bytes does not pass the top of the 64-bit host address space (R108). -/
def bufferFits (r : Record) (bytes : Nat) : Bool := Rec.bufferAddress r + bytes ≤ Config.hostTop

/-- The block count of a range command (R108). -/
def blockCountValid (r : Record) : Bool := 1 ≤ Rec.blockCount r && Rec.blockCount r ≤ Config.maxBlockCount

/-- Entries, base and area of a ring to create, with `bytes` bytes an entry (R108). -/
def ringAreaValid (r : Record) (bytes : Nat) : Bool :=
  2 ≤ Rec.ringEntries r && Rec.ringEntries r ≤ 4096 && Rec.ringBase r % 64 == 0 &&
    Rec.ringBase r + bytes * Rec.ringEntries r ≤ Config.hostTop

/-- A range command that uses no buffer (Table 9.2). -/
def rangeNoBufferValid (r : Record) : Bool :=
  Rec.flags r == 0 && blockCountValid r && Rec.bufferAddress r == 0 && Rec.zeroAt r [(6, 2), (24, 40)]

/-- Intake check 2 (R108, R182): every used field in range, every reserved field and flag zero. -/
def fieldsValid (k : CommandKind) (r : Record) : Bool :=
  match k with
  | .read =>
    Rec.flags r == 0 && blockCountValid r && bufferFits r (4096 * Rec.blockCount r) && Rec.zeroAt r [(6, 2), (24, 40)]
  | .write =>
    Rec.flags r ≤ 1 && blockCountValid r && bufferFits r (4096 * Rec.blockCount r) && Rec.zeroAt r [(6, 2), (24, 40)]
  | .flush | .discard | .pin | .unpin => rangeNoBufferValid r
  | .flushAll => Rec.flags r == 0 && Rec.zeroAt r [(4, 60)]
  | .createSr =>
    Rec.flags r == 0 && Rec.targetRing r ≤ 15 && Rec.boundCr r ≤ 15 && 1 ≤ Rec.weight r && Rec.weight r ≤ 8 &&
      ringAreaValid r 64 && Rec.zeroAt r [(7, 1), (10, 6), (24, 40)]
  | .createCr =>
    Rec.flags r == 0 && Rec.targetRing r ≤ 15 && Rec.vector r ≤ 15 && 1 ≤ Rec.createCoalesceCount r &&
      Rec.interruptsOn r ≤ 1 && Rec.coalesceTime r ≤ 10000 && ringAreaValid r 16 && Rec.zeroAt r [(12, 4), (24, 40)]
  | .deleteSr | .deleteCr => Rec.flags r == 0 && Rec.targetRing r ≤ 15 && Rec.zeroAt r [(5, 59)]
  | .setRingOptions =>
    Rec.flags r == 0 && Rec.targetRing r ≤ 15 &&
      (if Rec.ringKind r = 0 then
        1 ≤ Rec.weight r && Rec.weight r ≤ 8 && Rec.zeroAt r [(7, 57)]
      else
        Rec.ringKind r == 1 && Rec.interruptsOn r ≤ 1 && Rec.coalesceTime r ≤ 10000 && 1 ≤ Rec.setCoalesceCount r &&
          Rec.zeroAt r [(6, 1), (8, 2), (13, 51)])
  | .setCleaner =>
    Rec.flags r == 0 && Rec.lowMark r < Rec.highMark r && Rec.highMark r ≤ 32768 && Rec.zeroAt r [(4, 4), (16, 48)]
  | .setMediaParams =>
    Rec.flags r == 0 && 1 ≤ Rec.mediaTimeout r && Rec.mediaTimeout r ≤ 10000 && Rec.retryLimit r ≤ 7 &&
      Rec.zeroAt r [(4, 4), (13, 51)]
  | .reportGeometry | .awaitNotice =>
    Rec.flags r == 0 && bufferFits r 64 && Rec.zeroAt r [(4, 12), (24, 40)]
  | .readSet =>
    Rec.flags r == 0 && Rec.setNumber r ≤ 4095 && bufferFits r 256 && Rec.zeroAt r [(4, 4), (10, 6), (24, 40)]
  | .unfenceSet => Rec.flags r == 0 && Rec.setNumber r ≤ 4095 && Rec.zeroAt r [(4, 4), (10, 54)]
  | .abort => Rec.flags r == 0 && Rec.targetRing r ≤ 15 && Rec.zeroAt r [(5, 3), (10, 54)]

/-! ### Messages of the link partner -/

/-- What a message from the link partner is taken as (R184). -/
inductive PartnerMessage where
  | response (slot : SlotId) (attempt block result : Nat) (data : Option (List Byte))
  | announce (capacity : Nat)
  | discarded
deriving DecidableEq, Repr

/-- The little-endian number of these bytes. -/
def leNat : List Byte → Nat
  | [] => 0
  | b :: bs => b.toNat + 256 * leNat bs

/-- The byte at `k` of a message. -/
def byteAt (m : List Byte) (k : Nat) : Nat := (m.getD k 0).toNat

/-- The block number, or capacity, at offset 8 (Table 9.12), at its full 64-bit width. -/
def messageNumber (m : List Byte) : Nat := leNat ((m.drop 8).take 8)

/-- R184: a message is judged by its header and its length. The tag holds the slot in bits 0-4 and the attempt in bits 5-7. -/
def parseMessage (m : List Byte) : PartnerMessage :=
  let slot : SlotId := Fin.ofNat 32 (byteAt m 1 % 32)
  let attempt := byteAt m 1 / 32
  if byteAt m 0 = 3 ∧ byteAt m 3 % 2 = 1 ∧ m.length = 4112 then
    .response slot attempt (messageNumber m) (byteAt m 2) (some (m.drop 16))
  else if byteAt m 0 = 3 ∧ byteAt m 3 % 2 = 0 ∧ m.length = 16 then
    .response slot attempt (messageNumber m) (byteAt m 2) none
  else if byteAt m 0 = 4 ∧ m.length = 16 then .announce (messageNumber m)
  else .discarded

end Sys2Proof.Machine
end

