-- ==== Sys2Proof/Machine/Ops.lean ====
section
/-! DEFINITION. The named operations over the state: sparse tables, the frame store, and the reads and writes of lines,
sets, counts, slots, contexts, rings and channels. Every later definition reaches the state through these. -/

namespace Sys2Proof.Machine

/-! ### Tables that list only what differs from a default -/

namespace Sparse

/-- What the table holds at `a`; an unlisted key holds `d`. -/
def get {α : Type} (d : α) : List (Nat × α) → Nat → α
  | [], _ => d
  | (k, v) :: m, a => if a = k then v else get d m a

/-- Puts an entry before the first entry of a greater key. -/
def insert {α : Type} (a : Nat) (v : α) : List (Nat × α) → List (Nat × α)
  | [] => [(a, v)]
  | (k, x) :: m => if a < k then (a, v) :: (k, x) :: m else (k, x) :: insert a v m

/-- The table without the key `a`. -/
def erase {α : Type} (m : List (Nat × α)) (a : Nat) : List (Nat × α) := m.filter fun c => c.1 != a

/-- The table with `v` at `a`; writing the default removes the entry, so that equal tables are equal lists. -/
def put {α : Type} [DecidableEq α] (d : α) (m : List (Nat × α)) (a : Nat) (v : α) : List (Nat × α) :=
  if v = d then erase m a else insert a v (erase m a)

/-- The canonical form: keys strictly rising, and no entry equal to the default. -/
def wf {α : Type} [DecidableEq α] (d : α) (m : List (Nat × α)) : Bool :=
  decide ((m.map Prod.fst).Pairwise (· < ·)) && m.all fun c => decide (c.2 ≠ d)

end Sparse

/-! ### The frame store -/

namespace Memory

/-- What a byte of the frame store that nothing has written reads as. R24 leaves the contents after power-on undefined.
DESIGN CHOICE, unsafe (notes/assumptions/1.md). -/
def unwritten : Byte := 0

/-- The byte at an address of the frame store. -/
def read (m : List Host.Cell) (a : Nat) : Byte := Sparse.get unwritten m a

/-- The canonical form of the frame store. -/
def wf (m : List Host.Cell) : Bool := Sparse.wf unwritten m

/-- The 4,096 bytes from `base` on. -/
def readBlock (m : List Host.Cell) (base : Nat) : List Byte := (List.range 4096).map fun k => read m (base + k)

/-- The cells of a block of bytes at `base`, none for a byte equal to what an unwritten byte reads as. -/
def blockCells (base : Nat) : Nat → List Byte → List Host.Cell
  | _, [] => []
  | k, b :: bs => if b = unwritten then blockCells base (k + 1) bs else (base + k, b) :: blockCells base (k + 1) bs

/-- The 4,096 bytes from `base` on replaced whole; a byte that `data` does not have is as if never written. -/
def writeBlock (m : List Host.Cell) (base : Nat) (data : List Byte) : List Host.Cell :=
  m.filter (fun c => decide (c.1 < base)) ++ blockCells base 0 (data.take 4096) ++
    m.filter (fun c => decide (base + 4096 ≤ c.1))

end Memory

/-! ### Small tools -/

/-- The other of the two epochs. -/
def Epoch.other : Epoch → Epoch
  | .zero => .one
  | .one => .zero

/-- The first number of `n` whose entry is absent (the lowest FREE channel or slot). -/
def firstFree {α : Type} {n : Nat} (v : Vector (Option α) n) : Option (Fin n) :=
  (List.finRange n).find? fun i => v[i].isNone

/-- The code of a status (Table 9.5); statuses are ranked by it (section 0.5). -/
def Status.code : Status → Nat
  | .ok => 0x00
  | .discarded => 0x01
  | .pinLimit => 0x02
  | .pinUnderflow => 0x03
  | .pinConflict => 0x04
  | .mediaBusy => 0x05
  | .mediaTimeout => 0x06
  | .mediaFault => 0x07
  | .offline => 0x08
  | .hostBusError => 0x09
  | .fenced => 0x0A
  | .aborted => 0x0B
  | .invalidOpcode => 0x20
  | .invalidField => 0x21
  | .outOfRange => 0x22
  | .duplicateId => 0x23
  | .busy => 0x24
  | .stateConflict => 0x25

/-- The worse of two statuses: the one with the higher code (section 0.5). -/
def Status.worse (a b : Status) : Status := if a.code < b.code then b else a

/-! ### Lines -/

/-- The set of a block (R1). -/
def setOf (block : Nat) : SetId := Fin.ofNat 4096 block

/-- The address of a line's frame in the frame store (R1: frame `n` belongs to line `n`). -/
def LineId.frameBase (l : LineId) : Nat := 4096 * (8 * l.set.val + l.way.val)

/-- The block field, absent in INVALID (Table 1.1). -/
def LineState.block : LineState → Option Nat
  | .invalid => none
  | .filling b _ => some b
  | .clean b => some b
  | .dirty b _ => some b
  | .cleaning b _ => some b
  | .redirty b _ _ => some b

/-- DIRTY, CLEANING or REDIRTY (section 0.4, 'unclean'). -/
def LineState.isUnclean : LineState → Bool
  | .dirty .. | .cleaning .. | .redirty .. => true
  | .invalid | .filling .. | .clean _ => false

/-- CLEAN, DIRTY, CLEANING or REDIRTY (section 1.3, 'stable'). -/
def LineState.isStable : LineState → Bool
  | .clean _ | .dirty .. | .cleaning .. | .redirty .. => true
  | .invalid | .filling .. => false

def LineState.isFilling : LineState → Bool
  | .filling .. => true
  | .invalid | .clean _ | .dirty .. | .cleaning .. | .redirty .. => false

def LineState.isDirty : LineState → Bool
  | .dirty .. => true
  | .invalid | .filling .. | .clean _ | .cleaning .. | .redirty .. => false

def LineState.isCleaning : LineState → Bool
  | .cleaning .. => true
  | .invalid | .filling .. | .clean _ | .dirty .. | .redirty .. => false

/-- The line epoch, present in the unclean states (Table 1.1). -/
def LineState.epoch : LineState → Option Epoch
  | .dirty _ e => some e
  | .cleaning _ e => some e
  | .redirty _ e _ => some e
  | .invalid | .filling .. | .clean _ => none

/-- No readers and no exclusive hold. -/
def Line.noHolds (ln : Line) : Bool := ln.readers == 0 && !ln.exclusive

def State.cacheSet (s : State) (S : SetId) : CacheSet := Sparse.get CacheSet.reset s.directory.sets S.val

def State.setCacheSet (s : State) (S : SetId) (cs : CacheSet) : State :=
  { s with directory := { s.directory with sets := Sparse.put CacheSet.reset s.directory.sets S.val cs } }

def State.line (s : State) (l : LineId) : Line := (s.cacheSet l.set).ways[l.way]

def State.setLine (s : State) (l : LineId) (ln : Line) : State :=
  s.setCacheSet l.set { s.cacheSet l.set with ways := (s.cacheSet l.set).ways.set l.way ln }

/-- The way moves to the front of its set's recency order (R6). -/
def State.touchWay (s : State) (l : LineId) : State :=
  s.setCacheSet l.set { s.cacheSet l.set with recency := l.way :: (s.cacheSet l.set).recency.filter (· != l.way) }

def State.setWaitList (s : State) (S : SetId) (q : List Bop) : State :=
  s.setCacheSet S { s.cacheSet S with waitList := q }

def State.setFence (s : State) (S : SetId) (f : FenceRecord) : State :=
  s.setCacheSet S { s.cacheSet S with fence := f }

def State.isFenced (s : State) (S : SetId) : Bool := (s.cacheSet S).fence.failedWay.isSome

def State.setLineState (s : State) (l : LineId) (st : LineState) : State := s.setLine l { s.line l with state := st }

def State.setAccessQueue (s : State) (l : LineId) (q : List Bop) : State := s.setLine l { s.line l with accessQueue := q }

def State.setWatchers (s : State) (l : LineId) (w : List Watcher) : State := s.setLine l { s.line l with watchers := w }

/-- The line enters INVALID (R2): its block, fill source and epochs go with its state, its pins become 0, clean wanted is
cleared and its check code is discarded (R5). Holds, access queue and watchers stay. -/
def State.enterInvalid (s : State) (l : LineId) : State :=
  s.setLine l { s.line l with state := .invalid, checkBad := false, pins := 0, cleanWanted := false }

/-! ### Units of the state -/

def State.ctx (s : State) (c : CtxId) : Context := s.commands.contexts[c]

def State.setCtx (s : State) (c : CtxId) (x : Context) : State :=
  { s with commands := { s.commands with contexts := s.commands.contexts.set c x } }

/-- The command a context holds, if it holds one. -/
def State.command (s : State) (c : CtxId) : Option Command :=
  match s.ctx c with
  | .holding cmd => some cmd
  | .free => none
  | .fetching _ _ => none

def State.sr (s : State) (n : RingId) : Option SubmissionRing := s.rings.srs[n]

def State.setSr (s : State) (n : RingId) (x : Option SubmissionRing) : State :=
  { s with rings := { s.rings with srs := s.rings.srs.set n x } }

def State.cr (s : State) (n : RingId) : Option CompletionRing := s.rings.crs[n]

def State.setCr (s : State) (n : RingId) (x : Option CompletionRing) : State :=
  { s with rings := { s.rings with crs := s.rings.crs.set n x } }

def State.slot (s : State) (i : SlotId) : Option MediaSlot := s.media.slots[i]

def State.setSlot (s : State) (i : SlotId) (x : Option MediaSlot) : State :=
  { s with media := { s.media with slots := s.media.slots.set i x } }

def State.channel (s : State) (i : ChannelId) : Option Transfer := s.host.channels[i]

def State.setChannel (s : State) (i : ChannelId) (x : Option Transfer) : State :=
  { s with host := { s.host with channels := s.host.channels.set i x } }

/-- A write joins the outbound stream (R166). -/
def State.hostWrite (s : State) (w : HostWrite) : State :=
  { s with host := { s.host with writes := s.host.writes ++ [w] } }

/-- A read of host memory is issued (R166). -/
def State.hostRead (s : State) (r : HostRead) : State :=
  { s with host := { s.host with reads := s.host.reads ++ [r] } }

/-- A request goes onto the media link (R84). -/
def State.mediaSend (s : State) (r : MediaRequest) : State :=
  { s with media := { s.media with requests := s.media.requests ++ [r] } }

/-- The frame of a line, 4,096 bytes. -/
def State.frame (s : State) (l : LineId) : List Byte := Memory.readBlock s.frames l.frameBase

/-- The frame of a line replaced whole. -/
def State.setFrame (s : State) (l : LineId) (data : List Byte) : State :=
  { s with frames := Memory.writeBlock s.frames l.frameBase data }

/-! ### Unclean counts, dirty order list, urgent queue -/

/-- unclean[e] (R50). -/
def State.unclean (s : State) (e : Epoch) : Nat :=
  match e with
  | .zero => s.writeBack.unclean0
  | .one => s.writeBack.unclean1

def State.setUnclean (s : State) (e : Epoch) (n : Nat) : State :=
  match e with
  | .zero => { s with writeBack := { s.writeBack with unclean0 := n } }
  | .one => { s with writeBack := { s.writeBack with unclean1 := n } }

def State.uncleanUp (s : State) (e : Epoch) : State := s.setUnclean e (s.unclean e + 1)

def State.uncleanDown (s : State) (e : Epoch) : State := s.setUnclean e (s.unclean e - 1)

/-- The pressure flag judged against the dirty count (R56): set at the high mark or above, cleared at the low mark or below. -/
def State.judgePressure (s : State) : State :=
  { s with writeBack := { s.writeBack with
      pressure :=
        if s.writeBack.highMark ≤ s.writeBack.dirtyOrder.length then true
        else if s.writeBack.dirtyOrder.length ≤ s.writeBack.lowMark then false
        else s.writeBack.pressure } }

/-- The line joins the tail of the dirty order list, and the pressure flag is judged (R53). -/
def State.joinDirty (s : State) (l : LineId) : State :=
  State.judgePressure { s with writeBack := { s.writeBack with dirtyOrder := s.writeBack.dirtyOrder ++ [l] } }

/-- The line leaves the dirty order list wherever it stands, and the pressure flag is judged (R53); a line that is not on the
list changes nothing. -/
def State.leaveDirty (s : State) (l : LineId) : State :=
  if l ∈ s.writeBack.dirtyOrder then
    State.judgePressure
      { s with writeBack := { s.writeBack with dirtyOrder := s.writeBack.dirtyOrder.filter (· != l) } }
  else s

/-- Clean wanted is set and the line joins the tail of the urgent queue; if it is set already, nothing changes (R54). -/
def State.wantClean (s : State) (l : LineId) : State :=
  if (s.line l).cleanWanted then s
  else
    let s := s.setLine l { s.line l with cleanWanted := true }
    { s with writeBack := { s.writeBack with urgent := s.writeBack.urgent ++ [l] } }

/-- The line leaves the urgent queue and its clean wanted flag is cleared (R55). -/
def State.unwantClean (s : State) (l : LineId) : State :=
  let s := s.setLine l { s.line l with cleanWanted := false }
  { s with writeBack := { s.writeBack with urgent := s.writeBack.urgent.filter (· != l) } }

end Sys2Proof.Machine
end

