-- ==== Sys2Proof/Machine/Flags.lean ====
section
/-! DEFINITION. Every condition and flag that the spec derives from the state: counts, eligibility, credit, flush mode,
clean demand, victims, the quiesce condition, and what makes a fenced set empty of work. -/

namespace Sys2Proof.Machine

/-! ### Command Unit -/

/-- Contexts that are FREE (R104). -/
def State.freeContexts (s : State) : Nat := s.commands.contexts.toList.countP (· == Context.free)

/-- A context is available to the ring (R104). -/
def State.contextAvailable (s : State) (n : RingId) : Bool :=
  if n = 0 then 1 ≤ s.freeContexts else Config.adminReserve < s.freeContexts

/-- The lowest-numbered FREE context (R104). -/
def State.lowestFreeContext (s : State) : Option CtxId := (List.finRange 128).find? fun c => s.ctx c == Context.free

/-- BOPs outstanding of a context (R104). -/
def Context.outstanding : Context → Nat
  | .holding c => c.outstanding
  | .free => 0
  | .fetching _ _ => 0

/-- BOPs in use: the BOPs outstanding across all contexts (R113). -/
def State.bopsInUse (s : State) : Nat := (s.commands.contexts.toList.map Context.outstanding).sum

/-- Free BOPs of the pool (R113). -/
def State.freeBops (s : State) : Nat := Config.poolSize - s.bopsInUse

/-- The submission ring a context is held for. -/
def Context.sr : Context → Option RingId
  | .free => none
  | .fetching n _ => some n
  | .holding c => some c.sr

/-- A context of the submission ring is in flight (R105). -/
def State.srInFlight (s : State) (n : RingId) : Bool := s.commands.contexts.toList.any fun x => x.sr == some n

/-- The context holds an AWAIT NOTICE: a command of SR0 with that opcode (R123).
DEDUCED (notes/assumptions/16.md). -/
def Context.holdsAwaitNotice : Context → Bool
  | .holding c => commandOf c.sr c.record == some .awaitNotice
  | .free => false
  | .fetching _ _ => false

/-- Contexts not FREE other than those holding AWAIT NOTICE (R123, R176). -/
def State.countedContexts (s : State) : Nat :=
  s.commands.contexts.toList.countP fun x => x != Context.free && !x.holdsAwaitNotice

/-! ### Ring Unit -/

/-- Posted-but-unconsumed records (section 6.1). -/
def CompletionRing.unconsumed (r : CompletionRing) : Nat := (r.tail + r.entries - r.head) % r.entries

/-- Records waiting to be fetched (section 6.1). -/
def SubmissionRing.waiting (r : SubmissionRing) : Nat := (r.tail + r.entries - r.head) % r.entries

/-- The credit is at least 1 (R131). -/
def CompletionRing.hasCredit (r : CompletionRing) : Bool := r.unconsumed + r.reserved + 1 < r.entries

/-- A submission ring is eligible for a fetch (R132). -/
def State.eligible (s : State) (n : RingId) : Bool :=
  match s.sr n with
  | some r =>
    r.state == .active && r.head != r.tail && s.engine.state == .running && s.contextAvailable n &&
      (match s.cr r.boundCr with
       | some c => c.state == .active && c.hasCredit
       | none => false)
  | none => false

/-- A head write of `v` lies within the span of the ring (R130, R185). -/
def CompletionRing.inSpan (r : CompletionRing) (v : Nat) : Bool :=
  v < r.entries && (v + r.entries - r.head) % r.entries ≤ r.unconsumed

/-! ### Write-Back Unit and Media Port -/

/-- The unclean total that ENGINE STATUS shows (R50). -/
def State.uncleanTotal (s : State) : Nat := s.writeBack.unclean0 + s.writeBack.unclean1

/-- The dirty count (R53). -/
def State.dirtyCount (s : State) : Nat := s.writeBack.dirtyOrder.length

/-- Flush mode (R58). -/
def State.flushMode (s : State) : Bool :=
  s.writeBack.activeFlushAll.isSome || (s.engine.state == .quiescing && s.engine.flushOnQuiesce)

/-- Background cleaning is on (R58). -/
def State.backgroundCleaning (s : State) : Bool := s.writeBack.pressure || s.flushMode

/-- A line is ready: DIRTY with no exclusive hold (R59). -/
def Line.ready (ln : Line) : Bool := ln.state.isDirty && !ln.exclusive

/-- The line the Write-Back Unit supplies for a clean (R59); absent when there is no clean demand. -/
def State.supply (s : State) : Option LineId :=
  match s.writeBack.urgent.find? fun l => (s.line l).ready with
  | some l => some l
  | none =>
    if s.backgroundCleaning then s.writeBack.dirtyOrder.find? fun l => !(s.line l).exclusive else none

/-- The cleans in flight: CLEAN slots that are not FREE, orphans included (R85). -/
def State.cleansInFlight (s : State) : Nat :=
  s.media.slots.toList.countP fun x =>
    match x with
    | some m => m.kind == .clean
    | none => false

/-- Attempts remain: the attempt is below the limit in force for it (R92). -/
def MediaSlot.attemptsRemain (m : MediaSlot) : Bool := m.attempt < m.retryLimit

/-- A slot that is not an orphan refers to the line. -/
def MediaSlot.serves (m : MediaSlot) (l : LineId) : Bool := m.line == l && !m.orphan

/-- The slot in REDRAW_WAIT for the line (R64). -/
def State.redrawSlot (s : State) (l : LineId) : Option SlotId :=
  (List.finRange 32).find? fun i =>
    match s.slot i with
    | some m => m.serves l && m.state == .redrawWait
    | none => false

/-! ### Line Directory -/

/-- The way that holds the block (R4 step 3). -/
def CacheSet.hitWay (cs : CacheSet) (block : Nat) : Option WayId :=
  (List.finRange 8).find? fun w => cs.ways[w].state.block == some block

/-- The lowest-numbered way that is not INVALID and whose check fails (R5). -/
def CacheSet.badWay (cs : CacheSet) : Option WayId :=
  (List.finRange 8).find? fun w => cs.ways[w].state != .invalid && cs.ways[w].checkBad

/-- A CLEAN way that may be taken (R18 rule 2). -/
def Line.isVictim (ln : Line) : Bool :=
  (match ln.state with
   | .clean _ => true
   | _ => false) &&
    ln.pins == 0 && ln.noHolds && ln.accessQueue.isEmpty && !ln.cleanWanted

/-- Victim choice (R18): the lowest INVALID way, else the eligible CLEAN way nearest the least-recent end. -/
def CacheSet.victim (cs : CacheSet) : Option WayId :=
  match (List.finRange 8).find? fun w => cs.ways[w].state == .invalid with
  | some w => some w
  | none => cs.recency.reverse.find? fun w => cs.ways[w].isVictim

/-- The way a stalled set asks to have cleaned (R20); absent when a way is CLEANING or has clean wanted, or no way meets
the choice. -/
def CacheSet.victimClean (cs : CacheSet) : Option WayId :=
  if cs.ways.toList.any fun ln => ln.state.isCleaning || ln.cleanWanted then none
  else
    cs.recency.reverse.find? fun w => cs.ways[w].state.isDirty && cs.ways[w].pins == 0 && !cs.ways[w].exclusive

/-- Ways of the set other than `w` with pins above 0 (R10). -/
def CacheSet.otherPinned (cs : CacheSet) (w : WayId) : Nat :=
  (List.finRange 8).countP fun v => v != w && 0 < cs.ways[v].pins

/-- How a BOP at the head of an access queue, or finding it empty, is judged (R13, R15). -/
inductive Verdict where
  | starts
  | waits
  | conflict
deriving DecidableEq, Repr

/-- R13 and R15: the judgement of a BOP on a stable line. -/
def Line.judge (ln : Line) (k : BopKind) : Verdict :=
  match k with
  | .read => if ln.exclusive then .waits else .starts
  | .write => if ln.noHolds then .starts else .waits
  | .pin => .starts
  | .discard =>
    if 0 < ln.pins then .conflict
    else
      match ln.state with
      | .clean _ | .dirty .. => if ln.noHolds then .starts else .waits
      | .invalid | .filling .. | .cleaning .. | .redirty .. => .waits
  | .flush | .unpin => .waits

/-- The line has nothing that keeps its fenced set from being empty of work (R162). -/
def Line.idle (ln : Line) : Bool :=
  !ln.state.isUnclean && !ln.state.isFilling && ln.noHolds && ln.accessQueue.isEmpty && ln.watchers.isEmpty

/-- A media slot refers to a way of the set, orphans included (R162). -/
def State.slotInSet (s : State) (S : SetId) : Bool :=
  s.media.slots.toList.any fun x =>
    match x with
    | some m => m.line.set == S
    | none => false

/-- The set is empty of work (R162). -/
def State.emptyOfWork (s : State) (S : SetId) : Bool :=
  (s.cacheSet S).ways.toList.all Line.idle && (s.cacheSet S).waitList.isEmpty && !s.slotInSet S

/-! ### Fault Unit and Engine Control -/

/-- The class of a first-occurrence record (Table 7.1). -/
def FaultRecord.faultClass : FaultRecord → Fin 5
  | .integrity .. => 0
  | .ring .. => 1
  | .link .. => 2
  | .media .. => 3
  | .hostBus .. => 4

/-- The lowest-numbered unreported class (R153). -/
def State.unreportedClass (s : State) : Option (Fin 5) :=
  (List.finRange 5).find? fun c => s.faults.entries[c].unreported

/-- The quiesce condition (R176). -/
def State.quiesceCondition (s : State) : Bool :=
  s.countedContexts == 0 &&
    (!s.engine.flushOnQuiesce || s.uncleanTotal == 0 || s.media.link == .down)

/-- The admin ring registers hold a valid pair (R174). -/
def State.adminRegistersValid (s : State) : Bool :=
  let srEntries := s.host.adminRingSizes.toNat % 65536
  let crEntries := s.host.adminRingSizes.toNat / 65536
  8 ≤ srEntries && srEntries ≤ 4096 && 8 ≤ crEntries && crEntries ≤ 4096 &&
    s.host.adminSubmissionBase.toNat % 64 == 0 && s.host.adminCompletionBase.toNat % 64 == 0 &&
    s.host.adminSubmissionBase.toNat + 64 * srEntries ≤ Config.hostTop &&
    s.host.adminCompletionBase.toNat + 16 * crEntries ≤ Config.hostTop

end Sys2Proof.Machine
end

