-- ==== Sys2Proof/Machine/Records.lean ====
section
/-! DEFINITION. Every record and message header the SC6 writes (chapter 9, R183), and what a read of the register window
returns (R169 to R172, R185). A record is a sum of its fields at their offsets; what no field covers is zero. -/

namespace Sys2Proof.Machine

/-- The number whose little-endian bytes hold the (offset, size, value) fields at full width, and zero elsewhere (R183). -/
def assemble : List (Nat × Nat × Nat) → Nat
  | [] => 0
  | (offset, size, value) :: fs => value % 256 ^ size * 256 ^ offset + assemble fs

def bit (b : Bool) : Nat := if b then 1 else 0

def Epoch.toNat : Epoch → Nat
  | .zero => 0
  | .one => 1

/-- Table 9.4, Table 9.6, R140, R183: the completion record of a command, with the submission ring's head and the phase. -/
def completionRecord (c : Command) (srHead : Nat) (phase : Bool) : BitVec 128 :=
  BitVec.ofNat 128 (assemble
    [(0, 2, Rec.commandId c.record), (2, 2, srHead), (4, 1, c.sr.val), (5, 1, c.worst.code), (6, 1, c.failing.getD 0),
     (7, 1, bit c.failing.isSome), (8, 4, c.result.toNat), (15, 1, bit phase)])

def RingKind.code : RingKind → Nat
  | .sr => 0
  | .cr => 1

def RingFaultReason.code : RingFaultReason → Nat
  | .badIndex => 0
  | .fetchError => 1
  | .postError => 2

def LinkLossReason.code : LinkLossReason → Nat
  | .lost => 0
  | .reAnnounce => 1

def SlotKind.code : SlotKind → Nat
  | .fill => 0
  | .clean => 1

def HostTransferKind.code : HostTransferKind → Nat
  | .readOut => 0
  | .writeIn => 1
  | .notice => 2
  | .snapshot => 3
  | .geometry => 4

/-- Table 9.8. -/
def FaultRecord.fields : FaultRecord → List (Nat × Nat × Nat)
  | .integrity S w lost => [(8, 2, S.val), (10, 1, w.val), (11, 1, bit lost)]
  | .ring k n r => [(8, 1, k.code), (9, 1, n.val), (10, 1, r.code)]
  | .link r n => [(8, 1, r.code), (9, 1, n)]
  | .media b k st => [(8, 8, b), (16, 1, k.code), (17, 1, st.code)]
  | .hostBus a k n id => [(8, 8, a), (16, 1, k.code), (17, 1, n.val), (18, 2, id)]

/-- Table 9.7. -/
def noticeRecord (n : Notice) : BitVec 512 :=
  BitVec.ofNat 512 (assemble
    ([(0, 1, n.faultClass.val), (2, 2, n.count)] ++
      (match n.first with
       | some r => r.fields
       | none => [])))

/-- Table 9.9, with the values of Table 5.7 as they stand (R118). -/
def State.geometryRecord (s : State) : BitVec 512 :=
  BitVec.ofNat 512 (assemble
    [(0, 8, s.media.capacity), (8, 1, bit (s.media.link == .up)), (9, 1, 8), (10, 2, 4096), (12, 4, 32768),
     (16, 4, 4096), (20, 2, 128), (22, 1, 8), (24, 2, 1024), (26, 2, 256), (28, 1, 16), (29, 1, 16), (30, 2, 4096),
     (32, 1, 2), (33, 1, 8), (34, 1, 32), (35, 1, 16), (36, 1, 4), (37, 1, 32), (38, 1, 16), (39, 1, 4), (40, 1, 255),
     (41, 1, 6), (44, 4, s.writeBack.highMark), (48, 4, s.writeBack.lowMark), (52, 4, s.media.timeout),
     (56, 1, s.media.retryLimit)])

/-- The state byte of a way record (Table 9.11). -/
def LineState.code : LineState → Nat
  | .invalid => 0
  | .filling _ .media => 1
  | .filling _ .host => 2
  | .clean _ => 3
  | .dirty .. => 4
  | .cleaning .. => 5
  | .redirty .. => 6

/-- The way's position in the recency order, 0 at the front (R6, R164). -/
def CacheSet.recencyPosition (cs : CacheSet) (w : WayId) : Nat := cs.recency.idxOf w

/-- Table 9.11: the record of way `w`, at offset 32 + 28 w of the snapshot. -/
def CacheSet.wayFields (cs : CacheSet) (w : WayId) : List (Nat × Nat × Nat) :=
  let ln := cs.ways[w]
  let o := 32 + 28 * w.val
  [(o, 1, ln.state.code),
   (o + 1, 1, bit ln.state.block.isSome + 2 * bit ln.exclusive + 4 * bit ln.cleanWanted + 8 * bit ln.state.epoch.isSome +
      16 * (match ln.state.epoch with
        | some e => e.toNat
        | none => 0)),
   (o + 2, 1, ln.pins), (o + 3, 1, cs.recencyPosition w), (o + 4, 8, ln.state.block.getD 0), (o + 12, 2, ln.readers),
   (o + 14, 2, ln.accessQueue.length), (o + 16, 2, ln.watchers.length)]

/-- Table 9.10. -/
def CacheSet.headerFields (cs : CacheSet) (S : SetId) : List (Nat × Nat × Nat) :=
  [(0, 2, S.val),
   (2, 1, bit cs.fence.failedWay.isSome + 2 * bit cs.fence.lost + 4 * bit cs.fence.releasing.isSome +
      8 * bit cs.fence.failedWay.isSome),
   (3, 1, match cs.fence.failedWay with
      | some w => w.val
      | none => 0),
   (4, 1, cs.fence.salvaged), (5, 1, cs.fence.salvageFailures), (6, 2, cs.waitList.length)]

/-- Section 9.5: the 256-byte snapshot of a set (R164). -/
def CacheSet.snapshotRecord (cs : CacheSet) (S : SetId) : BitVec 2048 :=
  BitVec.ofNat 2048 (assemble (cs.headerFields S ++ (List.finRange 8).flatMap cs.wayFields))

/-- The tag byte: slot in bits 0-4, attempt in bits 5-7 (section 9.6). -/
def tagByte (i : SlotId) (attempt : Nat) : Nat := i.val + 32 * (attempt % 8)

/-- Table 9.12: the header of a READ request (type 0x01) or WRITE request (type 0x02). -/
def requestHeader (k : SlotKind) (i : SlotId) (attempt block : Nat) : BitVec 128 :=
  BitVec.ofNat 128 (assemble
    [(0, 1, match k with
       | .fill => 1
       | .clean => 2), (1, 1, tagByte i attempt), (8, 8, block)])

/-! ### The register window -/

def EngineState.code : EngineState → Nat
  | .disabled => 0
  | .running => 1
  | .quiescing => 2
  | .quiesced => 3
  | .halted => 4

/-- What QUIESCE reads as (R170). -/
def EngineControl.quiesceRead (e : EngineControl) : Bool :=
  match e.state with
  | .quiescing => true
  | .quiesced => true
  | .running => false
  | .disabled => false
  | .halted => e.quiesceAtHalt

/-- Reading ENGINE CONTROL (R170, R185). -/
def State.engineControlWord (s : State) : Nat :=
  bit (s.engine.state != .disabled) + 2 * bit s.engine.quiesceRead + 4 * bit s.engine.flushOnQuiesce

/-- Reading word 0 of ENGINE STATUS (R171, Table 9.13). -/
def State.engineStatusWord0 (s : State) : Nat :=
  s.engine.state.code + 8 * bit (s.media.link == .up) + 16 * bit s.engine.enableRefused +
    32 * bit s.engine.quiesceResidue + 64 * bit s.writeBack.activeFlushAll.isSome + 128 * bit s.writeBack.walk.isSome

/-- Reading word 1 of ENGINE STATUS: unclean total and dirty count (R171, R185). -/
def State.engineStatusWord1 (s : State) : Nat := s.uncleanTotal % 65536 + 65536 * (s.dirtyCount % 65536)

/-- Reading FAULT SUMMARY (R156, Table 9.13). -/
def State.faultSummaryWord (s : State) : Nat :=
  bit s.faults.entries[0].unreported + 2 * bit s.faults.entries[1].unreported + 4 * bit s.faults.entries[2].unreported +
    8 * bit s.faults.entries[3].unreported + 16 * bit s.faults.entries[4].unreported +
    256 * s.commands.noticeRequests.length

/-- Reading SR TAIL: the tail, or 0 while UNUSED (R129). -/
def State.srTailWord (s : State) (n : RingId) : Nat :=
  match s.sr n with
  | some r => r.tail
  | none => 0

/-- Reading CR HEAD: the head, or 0 while UNUSED (R130). -/
def State.crHeadWord (s : State) (n : RingId) : Nat :=
  match s.cr n with
  | some r => r.head
  | none => 0

/-- The 4-byte register at an aligned offset; an offset with no register reads zero (Table 9.13, R169). -/
def State.readWord (s : State) (offset : Nat) : Nat :=
  if offset = 0x000 then s.engineControlWord
  else if offset = 0x008 then s.engineStatusWord0
  else if offset = 0x00C then s.engineStatusWord1
  else if offset = 0x010 then s.faultSummaryWord
  else if offset = 0x020 then s.host.adminSubmissionBase.toNat % 4294967296
  else if offset = 0x024 then s.host.adminSubmissionBase.toNat / 4294967296
  else if offset = 0x028 then s.host.adminCompletionBase.toNat % 4294967296
  else if offset = 0x02C then s.host.adminCompletionBase.toNat / 4294967296
  else if offset = 0x030 then s.host.adminRingSizes.toNat
  else if 0x100 ≤ offset ∧ offset < 0x140 then s.srTailWord (Fin.ofNat 16 ((offset - 0x100) / 4))
  else if 0x180 ≤ offset ∧ offset < 0x1C0 then s.crHeadWord (Fin.ofNat 16 ((offset - 0x180) / 4))
  else 0

/-- What a read of `size` bytes at `offset` returns (R169): aligned accesses of 4 or 8 bytes are taken, any other access
reads zero. A read changes nothing, so it is no command.
DESIGN CHOICE: no command, and both words of an 8-byte read from one state (notes/assumptions/15.md, 19.md). -/
def State.readRegister (s : State) (offset size : Nat) : Nat :=
  if size = 4 ∧ offset % 4 = 0 then s.readWord offset
  else if size = 8 ∧ offset % 8 = 0 then s.readWord offset + 4294967296 * s.readWord (offset + 4)
  else 0

end Sys2Proof.Machine
end

