-- ==== Sys2Proof/Machine/Faults.lean ====
section
/-! DEFINITION. The Fault Unit: reporting an occurrence (R150), delivering notices (R153) and merging one back (R154). -/

namespace Sys2Proof.Machine

def State.setEntry (s : State) (k : Fin 5) (e : CaptureEntry) : State :=
  { s with faults := { s.faults with entries := s.faults.entries.set k e } }

/-- An occurrence is recorded in its class (R150): the count goes up to at most 65,535, the first record is kept, and the
class becomes unreported. Delivery is judged at the end of the event (`deliverNotices`). -/
def State.reportFault (s : State) (r : FaultRecord) : State :=
  let e := s.faults.entries[r.faultClass]
  s.setEntry r.faultClass
    { count := min (e.count + 1) Config.maxFaultCount,
      first := match e.first with
        | some f => some f
        | none => some r,
      unreported := true }

/-- The class is delivered to the request (R153): the contents are taken, the entry is cleared, the request leaves the list
and the notice write is issued. The context is EXECUTING and holds the notice. -/
def State.deliver (s : State) (c : CtxId) (k : Fin 5) : State :=
  let e := s.faults.entries[k]
  let n : Notice := { faultClass := k, count := e.count, first := e.first }
  let s := s.setEntry k CaptureEntry.reset
  let s := { s with commands := { s.commands with noticeRequests := s.commands.noticeRequests.filter (· != c) } }
  match s.command c with
  | some cmd =>
    (s.setCtx c (.holding { cmd with state := .executing, notice := some n })).hostWrite
      (.notice (Rec.bufferAddress cmd.record) (noticeRecord n))
  | none => s

/-- Delivery, judged afresh while a request is pending and a class unreported (R153). -/
def deliverLoop : List CtxId → State → State
  | [], s => s
  | c :: cs, s =>
    match s.unreportedClass with
    | some k => deliverLoop cs (s.deliver c k)
    | none => s

/-- R153: delivery judged at the end of an event. -/
def State.deliverNotices (s : State) : State := deliverLoop s.commands.noticeRequests s

/-- A notice whose write failed is merged back into its class (R154). -/
def State.mergeNotice (s : State) (n : Notice) : State :=
  s.setEntry n.faultClass
    { count := min (n.count + s.faults.entries[n.faultClass].count) Config.maxFaultCount, first := n.first,
      unreported := true }

end Sys2Proof.Machine
end

