-- ==== Sys2Proof/Machine/Posting.lean ====
section
/-! DEFINITION. The Ring Unit: posting and dropping completions (R140 to R143), the completion of a draining ring's delete
(R138), ring faults and the halt they cause (R144, R178), interrupts (R145, R168) and the fetch arbiter (R133, R134). -/

namespace Sys2Proof.Machine

/-! ### Posting -/

/-- The submission ring's head as it stands (R140). -/
def State.srHead (s : State) (n : RingId) : Nat :=
  match s.sr n with
  | some q => q.head
  | none => 0

/-- R140: if no write of the ring is in flight, the record of the head of its post queue is built and issued. -/
def State.issueRecord (s : State) (n : RingId) : State :=
  match s.cr n with
  | some r =>
    match r.writeInFlight, r.postQueue with
    | none, c :: rest =>
      match s.command c with
      | some cmd =>
        (s.setCr n (some { r with postQueue := rest, writeInFlight := some c })).hostWrite
          (.completion n (r.base + 16 * r.tail) (completionRecord cmd (s.srHead cmd.sr) r.phase))
      | none => s.setCr n (some { r with postQueue := rest })
    | some _, _ => s
    | none, [] => s
  | none => s

/-- The reserved count of a completion ring goes down by 1. -/
def State.unreserve (s : State) (n : RingId) : State :=
  match s.cr n with
  | some r => s.setCr n (some { r with reserved := r.reserved - 1 })
  | none => s

/-- R143: a completion is dropped. Its context becomes FREE, and the ring's reserved count goes down if the fetch reserved. -/
def State.dropCompletion (s : State) (c : CtxId) (reserved : Bool) (n : RingId) : State :=
  let s := s.setCtx c .free
  if reserved then s.unreserve n else s

/-- A context that goes to POSTING joins the post queue of its submission ring's bound completion ring if that is ACTIVE, and
is dropped otherwise (R140, R143). -/
def State.joinPost (s : State) (c : CtxId) : State :=
  match s.command c with
  | some cmd =>
    match s.sr cmd.sr with
    | some q =>
      match s.cr q.boundCr with
      | some r =>
        if r.state = .active then
          let s := s.setCtx c (.holding { cmd with state := .posting })
          (s.setCr q.boundCr (some { r with postQueue := r.postQueue ++ [c] })).issueRecord q.boundCr
        else s.dropCompletion c cmd.reserved q.boundCr
      | none => s.setCtx c .free
    | none => s.setCtx c .free
  | none => s

/-- The status and result of a command's execution are given to its context (R116, R117); no failing offset. -/
def State.setOutcome (s : State) (c : CtxId) (st : Status) (result : Nat) : State :=
  match s.command c with
  | some cmd =>
    s.setCtx c (.holding { cmd with worst := st, failing := none, result := BitVec.ofNat 32 result, notice := none })
  | none => s

/-- R138: a draining submission ring with no context in flight and no fetch in flight becomes UNUSED, and its DELETE goes to
POSTING with the unfetched count. -/
def State.judgeDelete (s : State) (n : RingId) : State :=
  match s.sr n with
  | some q =>
    match q.state with
    | .draining unfetched c =>
      if q.fetchInFlight || s.srInFlight n then s
      else ((s.setSr n none).setOutcome c .ok unfetched).joinPost c
    | .active => s
    | .faulted => s
  | none => s

/-- The context goes to POSTING (R105, R140); if its completion is dropped, a delete that waited for it completes. -/
def State.toPosting (s : State) (c : CtxId) : State :=
  match s.command c with
  | some cmd => (s.joinPost c).judgeDelete cmd.sr
  | none => s

/-- The command's execution or wait ends with this status and result, and its context goes to POSTING (R117). -/
def State.finish (s : State) (c : CtxId) (st : Status) (result : Nat) : State := (s.setOutcome c st result).toPosting c

/-- The submission ring a context is held for, ring 0 for a FREE one. -/
def State.srOf (s : State) (c : CtxId) : RingId := ((s.ctx c).sr).getD 0

/-- The context becomes FREE without posting (R106, R136, R138), and a delete that waited for it completes. -/
def State.freeContext (s : State) (c : CtxId) : State := (s.setCtx c .free).judgeDelete (s.srOf c)

/-! ### Ring faults and the halt -/

/-- R178: an engine in RUNNING, QUIESCING or QUIESCED becomes HALTED. -/
def State.halt (s : State) : State :=
  match s.engine.state with
  | .running | .quiescing | .quiesced =>
    { s with engine := { s.engine with state := .halted, quiesceAtHalt := s.engine.quiesceRead } }
  | .disabled => s
  | .halted => s

/-- A fault of ring 0 is a claim on Engine Control (R144). -/
def State.claim (s : State) (n : RingId) : State := if n = 0 then s.halt else s

/-- R144: a fault of a submission ring. One that is DRAINING stays so; its indexes keep their values. -/
def State.faultSr (s : State) (n : RingId) (reason : RingFaultReason) : State :=
  let s :=
    match s.sr n with
    | some q => if q.state = SrState.active then s.setSr n (some { q with state := SrState.faulted }) else s
    | none => s
  (s.reportFault (.ring .sr n reason)).claim n

/-- The contexts of a faulted ring's post queue are dropped in queue order (R143). -/
def dropAll (n : RingId) : List CtxId → State → State
  | [], s => s
  | c :: cs, s =>
    match s.command c with
    | some cmd => dropAll n cs ((s.dropCompletion c cmd.reserved n).judgeDelete cmd.sr)
    | none => dropAll n cs s

/-- R144: a fault of a completion ring. Its post queue is dropped, its unsignalled count becomes 0 and its timer stops. -/
def State.faultCr (s : State) (n : RingId) (reason : RingFaultReason) : State :=
  match s.cr n with
  | some r =>
    let s := s.setCr n (some { r with state := .faulted, postQueue := [], unsignalled := 0, timer := none })
    ((dropAll n r.postQueue s).reportFault (.ring .cr n reason)).claim n
  | none => s

/-! ### Interrupts -/

/-- The interrupt emitter takes a request on a vector (R168): if the host link permits messages on it the message is issued,
otherwise the vector becomes pending.
DESIGN CHOICE: `permitted` is an operand (notes/assumptions/6.md). -/
def State.emit (s : State) (v : VectorId) (permitted : Bool) : State :=
  if permitted then s.hostWrite (.message v)
  else { s with host := { s.host with vectorPending := s.host.vectorPending.set v true } }

/-- R145: an interrupt message is sent for the ring: unsignalled becomes 0 and the timer stops. -/
def State.sendInterrupt (s : State) (n : RingId) (permitted : Bool) : State :=
  match s.cr n with
  | some r => (s.setCr n (some { r with unsignalled := 0, timer := none })).emit r.vector permitted
  | none => s

/-- R145 step 1 and R141 step 3: a successful post is counted, and starts the timer if it is the first. -/
def CompletionRing.countPost (r : CompletionRing) : CompletionRing :=
  if r.interruptsOn then
    { r with
      unsignalled := r.unsignalled + 1,
      timer := if r.unsignalled = 0 ∧ 0 < r.coalesceTime then some r.coalesceTime else r.timer }
  else r

/-- R145 step 2: unsignalled has reached the coalesce count. -/
def CompletionRing.messageDue (r : CompletionRing) : Bool :=
  r.interruptsOn && 1 ≤ r.unsignalled && r.coalesceCount ≤ r.unsignalled

/-- R141 step 1: the tail advances by 1, and the phase turns over when it wraps. -/
def CompletionRing.advance (r : CompletionRing) : CompletionRing :=
  if r.tail + 1 < r.entries then { r with tail := r.tail + 1 } else { r with tail := 0, phase := !r.phase }

/-! ### The fetch arbiter -/

/-- R134: a fetch begins for the ring: the lowest FREE context becomes FETCHING and the read of entry head is issued. -/
def State.grant (s : State) (n : RingId) : State :=
  match s.sr n, s.lowestFreeContext with
  | some q, some c =>
    let s := (s.setCtx c (.fetching n false)).setSr n (some { q with fetchInFlight := true })
    let s := { s with rings := { s.rings with fetch := some { ctx := c, sr := n } } }
    s.hostRead (.fetch (q.base + 64 * q.head))
  | some _, none => s
  | none, _ => s

/-- The I/O rings in the order of the search of R133 step 3: ascending after the current SR, wrapping from SR15 to SR1, the
current SR last. -/
def searchOrder (current : RingId) : List RingId :=
  (List.finRange 16).filter (fun n => decide (current < n)) ++
    (List.finRange 16).filter (fun n => decide (0 < n.val ∧ n ≤ current))

/-- R133: a run of the arbiter, which grants at most one fetch, and none while a fetch is in flight. -/
def State.fetchArbiter (s : State) : State :=
  match s.rings.fetch with
  | some _ => s
  | none =>
    if s.eligible 0 then s.grant 0
    else if s.eligible s.rings.currentSr && turnLeft then
      ({ s with rings := { s.rings with grantsUsed := s.rings.grantsUsed + 1 } } : State).grant s.rings.currentSr
    else
      match (searchOrder s.rings.currentSr).find? s.eligible with
      | some n => ({ s with rings := { s.rings with currentSr := n, grantsUsed := 1 } } : State).grant n
      | none => s
where
  /-- The current SR has used fewer grants than its weight (R133 step 2). -/
  turnLeft : Bool :=
    match s.sr s.rings.currentSr with
    | some q => s.rings.grantsUsed < q.weight
    | none => false

/-! ### The ends of an event that touch the host side -/

/-- R176: in QUIESCING, the quiesce condition is judged; when it is met the engine becomes QUIESCED, with the residue flag set
if the flush option was on, the link is DOWN and unclean data is left. -/
def State.judgeQuiesce (s : State) : State :=
  if s.engine.state = .quiescing ∧ s.quiesceCondition = true then
    { s with engine := { s.engine with
        state := .quiesced,
        quiesceResidue :=
          s.engine.flushOnQuiesce && s.media.link == .down && decide (0 < s.uncleanTotal) } }
  else s

/-- The end of an event on the host side: notices are delivered (R153), the quiesce condition is judged (R176), and the fetch
arbiter runs (R133). Each is judged on the state the event leaves; a run that finds nothing changes nothing.
DEDUCED (notes/assumptions/11.md). -/
def State.settleHost (s : State) : State := s.deliverNotices.judgeQuiesce.fetchArbiter

end Sys2Proof.Machine
end

