-- ==== Sys2Proof/Machine/Splitting.lean ====
section
/-! DEFINITION. The Command Unit's work on range commands: creating block operations (R114), their completion (R25) and the
gathering of their statuses (R115). -/

namespace Sys2Proof.Machine

/-- The block operation of offset `k` of a context's command (R113). -/
def Command.bop (cmd : Command) (c : CtxId) (kind : BopKind) (k : Nat) : Bop :=
  { ctx := c, offset := k, block := Rec.firstBlock cmd.record + k, kind := kind,
    durable := kind == .write && Rec.durable cmd.record }

/-- The next block operation of the context is created and awaits lookup (R114). -/
def State.createBop (s : State) (c : CtxId) : State :=
  match s.command c with
  | some cmd =>
    match (commandOf cmd.sr cmd.record).bind CommandKind.bopKind with
    | some kind =>
      let s := s.setCtx c (.holding { cmd with created := cmd.created + 1, outstanding := cmd.outstanding + 1 })
      { s with commands := { s.commands with awaitingLookup := s.commands.awaitingLookup ++ [cmd.bop c kind cmd.created] } }
    | none => s
  | none => s

/-- `n` block operations created one after another. -/
def createBops (c : CtxId) : Nat → State → State
  | 0, s => s
  | n + 1, s => createBops c n (s.createBop c)

/-- The end of splitting (R115): the context goes to RUNNING if a BOP is outstanding, and to POSTING otherwise. -/
def State.endSplitting (s : State) (c : CtxId) : State :=
  match s.command c with
  | some cmd =>
    if 0 < cmd.outstanding then s.setCtx c (.holding { cmd with state := .running }) else s.toPosting c
  | none => s

/-- Every block operation of the context has been created. -/
def Command.allCreated (cmd : Command) : Bool := Rec.blockCount cmd.record ≤ cmd.created

/-- R114 items 1 and 2: a context becomes SPLITTING. With the split queue empty it creates what the pool allows; it joins the
queue if it has not created them all, or if the queue was not empty. -/
def State.beginSplitting (s : State) (c : CtxId) : State :=
  match s.command c with
  | some cmd =>
    if s.commands.splitQueue.isEmpty then
      let n := min (Rec.blockCount cmd.record) s.freeBops
      let s := createBops c n s
      if n = Rec.blockCount cmd.record then s.endSplitting c
      else { s with commands := { s.commands with splitQueue := [c] } }
    else { s with commands := { s.commands with splitQueue := s.commands.splitQueue ++ [c] } }
  | none => s

/-- R114 item 3: a BOP has returned to the pool. The head of the split queue takes it and creates its next BOP; with its last
one it leaves the queue and its splitting ends. -/
def State.poolServes (s : State) : State :=
  match s.commands.splitQueue with
  | [] => s
  | c :: rest =>
    let s := s.createBop c
    match s.command c with
    | some cmd =>
      if cmd.allCreated then
        ({ s with commands := { s.commands with splitQueue := rest } } : State).endSplitting c
      else s
    | none => s

/-- R115 steps 2 and 3: the context takes a status and its offset. -/
def Command.take (cmd : Command) (st : Status) (offset : Nat) : Command :=
  if cmd.worst.code < st.code then { cmd with worst := st, failing := some offset }
  else if cmd.worst = st ∧ st ≠ .ok then
    { cmd with failing := some (match cmd.failing with
      | some k => min k offset
      | none => offset) }
  else cmd

/-- R25, R115: a block operation completes. Its context takes the status, goes to POSTING if it is RUNNING and this was its
last one, and the BOP returns to the pool. The caller has taken the BOP out of its place. -/
def State.completeBop (s : State) (b : Bop) (st : Status) : State :=
  match s.command b.ctx with
  | some cmd =>
    let cmd := { cmd.take st b.offset with outstanding := cmd.outstanding - 1 }
    let s := s.setCtx b.ctx (.holding cmd)
    let s := if cmd.state = .running ∧ cmd.outstanding = 0 then s.toPosting b.ctx else s
    s.poolServes
  | none => s

/-- Several block operations complete with one status, in order. -/
def completeAll (st : Status) : List Bop → State → State
  | [], s => s
  | b :: bs, s => completeAll st bs (s.completeBop b st)

end Sys2Proof.Machine
end

