-- ==== Sys2Proof/Machine/Directory.lean ====
section
/-! DEFINITION. The Line Directory: starting block operations (R10, R13, R35), DISCARD (R15, R70), fencing (R157 to R159),
lookup (R4), victim choice (R18), the service of an access queue (R14), the relookup of a detached queue (R17) and the relookup
pass over a set wait list (R22).

A lookup itself never serves an access queue and a service never runs a pass, so the definitions stand in that order and none
calls itself. What follows a lookup or a release (a service, a pass) is run by the event that made it. -/

namespace Sys2Proof.Machine

/-! ### The data mover (section 2.5) -/

/-- A transfer takes a channel, and issues its host reads if it is a write-in (R39). -/
def State.takeChannel (s : State) (i : ChannelId) (t : Transfer) : State :=
  let s := s.setChannel i (some t)
  match t.kind with
  | .writeIn => s.hostRead (.writeIn t.address)
  | .readOut => s

/-- R35: a transfer is handed to the data mover: it takes the lowest FREE channel if the channel queue is empty, and joins the
tail of the queue otherwise. -/
def State.handOver (s : State) (t : Transfer) : State :=
  match s.host.channelQueue, firstFree s.host.channels with
  | [], some i => s.takeChannel i t
  | _, _ => { s with host := { s.host with channelQueue := s.host.channelQueue ++ [t] } }

/-- R35, R36: the channel becomes FREE, and the head of the channel queue takes it in the same event. -/
def State.releaseChannel (s : State) (i : ChannelId) : State :=
  match s.host.channelQueue with
  | [] => s.setChannel i none
  | t :: rest => ({ s with host := { s.host with channelQueue := rest } } : State).takeChannel i t

/-- The transfer of a block operation: host address is the buffer address plus 4,096 times the offset (section 2.2). All the
reads of a write-in are unanswered at first. -/
def State.transferOf (s : State) (kind : TransferKind) (b : Bop) (l : LineId) : Transfer :=
  { kind := kind, bop := b, line := l,
    address := (match s.command b.ctx with
      | some cmd => Rec.bufferAddress cmd.record
      | none => 0) + 4096 * b.offset,
    gather := [], received := 0,
    outstanding := match kind with
      | .writeIn => 4096
      | .readOut => 0,
    error := false }

/-! ### Starting a block operation -/

/-- A READ starts: it takes a read hold and goes to the data mover (R7, R13, R26). -/
def State.startRead (s : State) (l : LineId) (b : Bop) : State :=
  let s := s.setLine l { s.line l with readers := (s.line l).readers + 1 }
  s.handOver (s.transferOf .readOut b l)

/-- A WRITE starts: it takes the exclusive hold and goes to the data mover (R8, R13, R28). -/
def State.startWrite (s : State) (l : LineId) (b : Bop) : State :=
  let s := s.setLine l { s.line l with exclusive := true }
  s.handOver (s.transferOf .writeIn b l)

/-- A PIN starts (R10): PIN_LIMIT at 255 pins, or if it would pin a seventh way; otherwise the pins go up, the way moves to the
front of the recency order, and the PIN completes OK. -/
def State.startPin (s : State) (l : LineId) (b : Bop) : State :=
  let ln := s.line l
  if ln.pins = Config.maxPins then s.completeBop b .pinLimit
  else if ln.pins = 0 ∧ (s.cacheSet l.set).otherPinned l.way = Config.maxPinnedWays then s.completeBop b .pinLimit
  else ((s.setLine l { ln with pins := ln.pins + 1 }).touchWay l).completeBop b .ok

/-- R70: an epoch's unclean count goes down, and the line leaves the write-back lists, if the line was DIRTY. -/
def State.forgetDirty (s : State) (l : LineId) : State :=
  match (s.line l).state with
  | .dirty _ e => ((s.leaveDirty l).unwantClean l).uncleanDown e
  | .invalid | .filling .. | .clean _ | .cleaning .. | .redirty .. => s

/-- A DISCARD starts (R15, R70): the line becomes INVALID, its write-back account and its access queue are emptied, its watchers
complete with DISCARDED, and the DISCARD completes OK. The caller relooks the BOPs that stood behind it (R17). -/
def State.startDiscard (s : State) (l : LineId) (b : Bop) : State :=
  let ws := (s.line l).watchers.map Watcher.bop
  let s := s.forgetDirty l
  let s := (s.setWatchers l []).setAccessQueue l []
  let s := s.enterInvalid l
  (completeAll .discarded ws s).completeBop b .ok

/-! ### Fencing (section 7.3) -/

/-- A failure against the active flush-all (R74): the count goes up by 1 and the worst status is kept. -/
def State.flushAllFailure (s : State) (st : Status) : State :=
  match s.writeBack.activeFlushAll with
  | some f =>
    { s with writeBack := { s.writeBack with activeFlushAll := some { f with
        failures := f.failures + 1,
        worst := some (match f.worst with
          | some w => w.worse st
          | none => st) } } }
  | none => s

/-- A failure is counted if a flush-all is active and `e` is its old epoch (R66, R74). -/
def State.oldEpochFailure (s : State) (e : Epoch) (st : Status) : State :=
  match s.writeBack.activeFlushAll with
  | some f => if f.oldEpoch = e then s.flushAllFailure st else s
  | none => s

/-- The write-back account of an unclean line that is given up in a fenced set (R66 items 1 to 3, R158 item 1). -/
def State.giveUpUnclean (s : State) (l : LineId) : State :=
  match (s.line l).state.epoch with
  | some e => (((s.leaveDirty l).unwantClean l).uncleanDown e).oldEpochFailure e .fenced
  | none => s

/-- R97: a slot that refers to the failed way becomes an orphan, or FREE if it is in BACKOFF or REDRAW_WAIT. -/
def State.orphanSlot (s : State) (l : LineId) (i : SlotId) : State :=
  match s.slot i with
  | some m =>
    if m.serves l then
      match m.state with
      | .drawing | .awaiting => s.setSlot i (some { m with orphan := true })
      | .backoff | .redrawWait => s.setSlot i none
    else s
  | none => s

/-- R158: the failed way is given up. -/
def State.giveUpFailedWay (s : State) (l : LineId) : State :=
  let ln := s.line l
  let s := s.giveUpUnclean l
  let s := completeAll .fenced (ln.watchers.map Watcher.bop) (s.setWatchers l [])
  let s := completeAll .fenced ln.accessQueue (s.setAccessQueue l [])
  let s : State := { s with media := { s.media with fillQueue := s.media.fillQueue.filter (· != l) } }
  let s := (List.finRange 32).foldl (fun s i => s.orphanSlot l i) s
  s.enterInvalid l

/-- R159 for one intact way: its access queue completes with FENCED. -/
def State.fenceQueue (s : State) (l : LineId) : State :=
  let q := (s.line l).accessQueue
  completeAll .fenced q (s.setAccessQueue l [])

/-- R159, salvage: a DIRTY line gets clean wanted and joins the urgent queue. -/
def State.salvage (s : State) (l : LineId) : State := if (s.line l).state.isDirty then s.wantClean l else s

/-- The ways of a set other than one, in ascending order. -/
def otherWays (w : WayId) : List WayId := (List.finRange 8).filter (· != w)

/-- R157: the set is fenced with `w` as the failed way: the fence record is set, the failed way is given up (R158), the intact
ways and the set wait list are dealt with (R159), and an INTEGRITY occurrence is reported. -/
def State.fenceSet (s : State) (S : SetId) (w : WayId) : State :=
  let lost := (s.line ⟨S, w⟩).state.isUnclean
  let s := s.setFence S { (s.cacheSet S).fence with failedWay := some w, lost := lost }
  let s := s.giveUpFailedWay ⟨S, w⟩
  let s := (otherWays w).foldl (fun s v => s.fenceQueue ⟨S, v⟩) s
  let q := (s.cacheSet S).waitList
  let s := completeAll .fenced q (s.setWaitList S [])
  let s := (otherWays w).foldl (fun s v => s.salvage ⟨S, v⟩) s
  s.reportFault (.integrity S w lost)

/-! ### Lookup (section 1.4) -/

/-- Who looks up: a BOP awaiting lookup, one of a detached access queue (R17), or one visited by a relookup pass (R22). -/
inductive LookupMode where
  | fresh
  | detached
  | pass
deriving DecidableEq, Repr

/-- How a lookup ended: the BOP completed, started or waits (`changed`: the lookup made a set change, R21); it joined the access
queue of a stable line, which is then served (R14); or, in a relookup pass, it stays in its place. -/
inductive LookupEnd where
  | ended (changed : Bool)
  | appended (line : LineId)
  | stays
deriving DecidableEq, Repr

/-- R20: a set with waiters asks for a victim clean. -/
def State.askVictimClean (s : State) (S : SetId) : State :=
  match (s.cacheSet S).victimClean with
  | some w => s.wantClean ⟨S, w⟩
  | none => s

/-- The BOP joins the tail of the set wait list, and the check of R20 is made (R19). -/
def State.joinWaitList (s : State) (S : SetId) (b : Bop) : State :=
  (s.setWaitList S ((s.cacheSet S).waitList ++ [b])).askVictimClean S

/-- R18: the victim becomes a line for the BOP's block. A READ or PIN joins its access queue and the line joins the fill queue; a
WRITE takes the exclusive hold and starts its write-in. The new block field has a good check code (R5). -/
def State.allocate (s : State) (l : LineId) (b : Bop) : State :=
  match b.kind with
  | .write =>
    let s := s.setLine l { s.line l with state := .filling b.block .host, checkBad := false }
    (s.touchWay l).startWrite l b
  | .read | .pin | .flush | .discard | .unpin =>
    let s := s.setLine l { s.line l with
      state := .filling b.block .media, checkBad := false, accessQueue := (s.line l).accessQueue ++ [b] }
    let s := s.touchWay l
    { s with media := { s.media with fillQueue := s.media.fillQueue ++ [l] } }

/-- A miss that needs a frame (R4, R18, R19, R22). -/
def State.seekVictim (s : State) (mode : LookupMode) (b : Bop) : State × LookupEnd :=
  let S := setOf b.block
  if mode = .fresh ∧ (s.cacheSet S).waitList ≠ [] then (s.joinWaitList S b, .ended false)
  else
    match (s.cacheSet S).victim with
    | some w => (s.allocate ⟨S, w⟩ b, .ended true)
    | none => if mode = .pass then (s, .stays) else (s.joinWaitList S b, .ended false)

/-- The 'Miss' column of Table 1.4. -/
def State.lookupMiss (s : State) (mode : LookupMode) (b : Bop) : State × LookupEnd :=
  match b.kind with
  | .read | .pin =>
    if s.media.link = .down then (s.completeBop b .offline, .ended false) else s.seekVictim mode b
  | .write => s.seekVictim mode b
  | .discard => (s.completeBop b .ok, .ended false)
  | .unpin => (s.completeBop b .pinUnderflow, .ended false)
  | .flush => (s.completeBop b .ok, .ended false)

/-- R11: an UNPIN that hits. Bringing the pins to 0 is a set change. -/
def State.unpinHit (s : State) (l : LineId) (b : Bop) : State × LookupEnd :=
  let ln := s.line l
  if 0 < ln.pins then
    ((s.setLine l { ln with pins := ln.pins - 1 }).completeBop b .ok, .ended (ln.pins == 1))
  else (s.completeBop b .pinUnderflow, .ended false)

/-- R68: a FLUSH that hits. -/
def State.flushHit (s : State) (l : LineId) (b : Bop) : State × LookupEnd :=
  let ln := s.line l
  match ln.state with
  | .dirty .. | .redirty .. =>
    ((s.setWatchers l (ln.watchers ++ [{ bop := b, mark := .next }])).wantClean l, .ended false)
  | .cleaning .. => (s.setWatchers l (ln.watchers ++ [{ bop := b, mark := .current }]), .ended false)
  | .invalid | .filling .. | .clean _ => (s.completeBop b .ok, .ended false)

/-- A BOP whose need is met starts on a stable line (R13); whether that is a set change. Only a DISCARD's start is one. -/
def State.startBop (s : State) (l : LineId) (b : Bop) : State × Bool :=
  match b.kind with
  | .read => (s.startRead l b, false)
  | .write => (s.startWrite l b, false)
  | .pin => (s.startPin l b, false)
  | .discard => (s.startDiscard l b, true)
  | .flush | .unpin => (s, false)

/-- A READ, WRITE, PIN or DISCARD that hits (R4, R13, R15). -/
def State.queuedHit (s : State) (l : LineId) (b : Bop) : State × LookupEnd :=
  let ln := s.line l
  let appended := s.setAccessQueue l (ln.accessQueue ++ [b])
  if ln.state.isStable then
    if ln.accessQueue.isEmpty then
      match ln.judge b.kind with
      | .starts =>
        let r := s.startBop l b
        (r.1, .ended r.2)
      | .conflict => (s.completeBop b .pinConflict, .ended false)
      | .waits => (appended, .appended l)
    else (appended, .appended l)
  else (appended, .ended false)

/-- R4: one lookup, up to what its access queue service and relookup pass then do. The caller has taken the BOP out of its
place. -/
def State.lookupBop (s : State) (mode : LookupMode) (b : Bop) : State × LookupEnd :=
  let S := setOf b.block
  if s.isFenced S then (s.completeBop b .fenced, .ended false)
  else
    match (s.cacheSet S).badWay with
    | some w => ((s.fenceSet S w).completeBop b .fenced, .ended false)
    | none =>
      match (s.cacheSet S).hitWay b.block with
      | some w =>
        match b.kind with
        | .unpin => s.unpinHit ⟨S, w⟩ b
        | .flush => s.flushHit ⟨S, w⟩ b
        | .read | .write | .pin | .discard => s.queuedHit ⟨S, w⟩ b
      | none => s.lookupMiss mode b

/-! ### Service, relookup, pass -/

/-- R17: the BOPs of a detached access queue are looked up again in order. They name the block the line held, which no line of
the set holds now, so each misses or hits the FILLING line an earlier one allocated, and none is served here.
DEDUCED (notes/assumptions/18.md). -/
def relookDetached : List Bop → State → State
  | [], s => s
  | b :: bs, s => relookDetached bs (s.lookupBop .detached b).1

/-- R14, R15: the service works through the queue from the head. The flag says that a DISCARD started, which made the line
INVALID. At most one step is taken for each entry. -/
def serviceLoop (l : LineId) : Nat → State → State × Bool
  | 0, s => (s, false)
  | n + 1, s =>
    let ln := s.line l
    match ln.accessQueue with
    | [] => (s, false)
    | b :: rest =>
      if ln.state.isStable then
        match ln.judge b.kind with
        | .waits => (s, false)
        | .conflict => serviceLoop l n ((s.setAccessQueue l rest).completeBop b .pinConflict)
        | .starts =>
          let r := (s.setAccessQueue l rest).startBop l b
          if r.2 then (relookDetached rest r.1, true) else serviceLoop l n r.1
      else (s, false)

/-- The service of a line's access queue (R14). The flag says that it made a set change: the line changed state, or its queue
became empty (R12, R21). -/
def State.serve (s : State) (l : LineId) : State × Bool :=
  let q := (s.line l).accessQueue
  let r := serviceLoop l q.length s
  (r.1, r.2 || (!q.isEmpty && (r.1.line l).accessQueue.isEmpty))

/-- R22: the visits of a relookup pass, from the oldest BOP of the list to the newest. A BOP that a visit has already taken out of
the list (by fencing the set) is passed over. The visited BOP is out of the list while it is looked up, so one that finds a check
failure completes after those the fencing completes.
DEDUCED for that order (notes/assumptions/22.md). -/
def passLoop (S : SetId) : List Bop → State → State
  | [], s => s
  | b :: bs, s =>
    if b ∈ (s.cacheSet S).waitList then
      match (s.setWaitList S ((s.cacheSet S).waitList.filter (· != b))).lookupBop .pass b with
      | (_, .stays) => passLoop S bs s
      | (s', .ended _) => passLoop S bs s'
      | (s', .appended l) => passLoop S bs (s'.serve l).1
    else passLoop S bs s

/-- The relookup pass that follows a set change (R21, R22); over an empty list it does nothing. At its end, if the list is not
empty, the check of R20 is made. -/
def State.pass (s : State) (S : SetId) : State :=
  let q := (s.cacheSet S).waitList
  if q.isEmpty then s
  else
    let s := passLoop S q s
    if (s.cacheSet S).waitList.isEmpty then s else s.askVictimClean S

/-- One pass for each of the sets, in the order listed (R21). -/
def passAll : List SetId → State → State
  | [], s => s
  | S :: Ss, s => passAll Ss (s.pass S)

/-- A set joins the sets that an event, or a step of one, has changed, once (R21). -/
def noteChange (changed : Bool) (S : SetId) (sets : List SetId) : List SetId :=
  if changed && !sets.contains S then sets ++ [S] else sets

/-- A line has changed state: its access queue is served. The flag says that it made a set change (R3, R14, R21). -/
def State.afterChange (s : State) (l : LineId) : State × Bool := ((s.serve l).1, true)

/-- The lookup event of a BOP awaiting lookup, up to its relookup pass; the flag says that it made a set change (R4, R14, R21). -/
def State.lookupEvent (s : State) (b : Bop) : State × Bool :=
  match s.lookupBop .fresh b with
  | (s', .ended changed) => (s', changed)
  | (s', .appended l) => s'.serve l
  | (s', .stays) => (s', false)

/-! ### Releasing holds (R9) -/

/-- A read hold is released, which serves the access queue. The flag says that it made a set change. -/
def State.releaseRead (s : State) (l : LineId) : State × Bool :=
  let s := s.setLine l { s.line l with readers := (s.line l).readers - 1 }
  let free := (s.line l).noHolds
  let r := s.serve l
  (r.1, free || r.2)

end Sys2Proof.Machine
end

