-- ==== Sys2Proof/Machine/WriteBack.lean ====
section
/-! DEFINITION. The Write-Back Unit: draws and redraws (R60, R64), the outcomes of a clean (R63, R65, R66), write commits (R40),
the flush-all queue (R72 to R77), the retag walk (R78 to R80) and the release of fenced sets (R162, R163). -/

namespace Sys2Proof.Machine

/-! ### Watchers -/

/-- Every NEXT watcher becomes CURRENT (R60, R64). -/
def State.promoteWatchers (s : State) (l : LineId) : State :=
  s.setWatchers l ((s.line l).watchers.map fun w => { w with mark := .current })

/-- Every CURRENT watcher completes with the status; NEXT watchers stay (R63, R65). -/
def State.answerWatchers (s : State) (l : LineId) (st : Status) : State :=
  let ws := (s.line l).watchers
  completeAll st ((ws.filter (·.mark == .current)).map Watcher.bop) (s.setWatchers l (ws.filter (·.mark == .next)))

/-- A BOP joins the clean watch list as NEXT and clean wanted is set (R54, R67). -/
def State.watchNext (s : State) (l : LineId) (b : Bop) : State :=
  (s.setWatchers l ((s.line l).watchers ++ [{ bop := b, mark := .next }])).wantClean l

/-! ### Draws -/

/-- R60 items 2 to 6: the draw of a clean begins on a DIRTY line. -/
def State.beginDraw (s : State) (l : LineId) : State :=
  let s := s.setLine l { s.line l with readers := (s.line l).readers + 1 }
  let s := (s.leaveDirty l).unwantClean l
  let s :=
    match (s.line l).state with
    | .dirty b e => s.setLineState l (.cleaning b e)
    | .invalid | .filling .. | .clean _ | .cleaning .. | .redirty .. => s
  s.promoteWatchers l

/-- A slot takes the timeout and retry limit in force (R87, R94). -/
def State.freshSlot (s : State) (state : SlotState) (kind : SlotKind) (block : Nat) (l : LineId) (attempt : Nat)
    (timer : Option Nat) (orphan : Bool) : MediaSlot :=
  { state := state, kind := kind, block := block, line := l, attempt := attempt, timeout := s.media.timeout,
    retryLimit := s.media.retryLimit, timer := timer, orphan := orphan }

/-- R64, R94: the redraw of a clean begins with the next attempt. A REDIRTY line becomes CLEANING and keeps its older epoch. -/
def State.beginRedraw (s : State) (i : SlotId) (m : MediaSlot) : State :=
  let l := m.line
  let s := s.setSlot i (some (s.freshSlot .drawing .clean m.block l (m.attempt + 1) none m.orphan))
  let s := s.mediaSend (.writeHeader (requestHeader .clean i (m.attempt + 1) m.block))
  let s := s.setLine l { s.line l with readers := (s.line l).readers + 1 }
  let s :=
    match (s.line l).state with
    | .redirty b e _ => s.setLineState l (.cleaning b e)
    | .invalid | .filling .. | .clean _ | .dirty .. | .cleaning .. => s
  (s.unwantClean l).promoteWatchers l

/-- R64: at the release of an exclusive hold, before the access queue is served, a redraw that waited for it begins. -/
def State.redrawWaiting (s : State) (l : LineId) : State :=
  match s.redrawSlot l with
  | some i =>
    match s.slot i with
    | some m => s.beginRedraw i m
    | none => s
  | none => s

/-- The exclusive hold is released (R9): a waiting redraw begins, then the access queue is served. The flag says that it made a
set change: the release left no readers, or the line changed state, or the service made one.
DEDUCED (notes/assumptions/17.md). -/
def State.releaseExclusive (s : State) (l : LineId) : State × Bool :=
  let before := (s.line l).state
  let s := s.setLine l { s.line l with exclusive := false }
  let free := (s.line l).noHolds
  let s := s.redrawWaiting l
  let changed := (s.line l).state != before
  let r := s.serve l
  (r.1, free || changed || r.2)

/-! ### Commits -/

/-- A line of a fenced set that enters DIRTY is placed for salvage (R54). -/
def State.salvageIfFenced (s : State) (l : LineId) : State := if s.isFenced l.set then s.wantClean l else s

/-- Table 2.3: the line's change at a write commit, with its accounting (R50, R51, R53). -/
def State.commitLine (s : State) (l : LineId) : State :=
  let e := s.writeBack.currentEpoch
  match (s.line l).state with
  | .filling b _ => (((s.setLineState l (.dirty b e)).uncleanUp e).joinDirty l).salvageIfFenced l
  | .clean b => (((s.setLineState l (.dirty b e)).uncleanUp e).joinDirty l).salvageIfFenced l
  | .cleaning b le => s.setLineState l (.redirty b le e)
  | .dirty .. | .redirty .. | .invalid => s

/-! ### The flush-all queue -/

/-- The flush-all at the head of the queue ends: it leaves the queue, its record is gone, and its context posts (R75, R77). -/
def State.endFlushAll (s : State) (st : Status) : State :=
  let s := { s with writeBack := { s.writeBack with activeFlushAll := none } }
  match s.commands.flushAllQueue with
  | c :: rest => ({ s with commands := { s.commands with flushAllQueue := rest } } : State).finish c st 0
  | [] => s

/-- R73: the head of the queue activates while none is active and no walk is in progress: the epoch turns over, and it
completes at once if the old count is 0, upon which the next is judged. -/
def activateLoop : Nat → State → State
  | 0, s => s
  | n + 1, s =>
    if s.writeBack.activeFlushAll.isSome || s.writeBack.walk.isSome || s.commands.flushAllQueue.isEmpty then s
    else
      let old := s.writeBack.currentEpoch
      let s := { s with writeBack := { s.writeBack with
        currentEpoch := old.other, activeFlushAll := some { oldEpoch := old, failures := 0, worst := none } } }
      if s.unclean old = 0 then activateLoop n (s.endFlushAll .ok) else s

/-- R73: the head of the flush-all queue is judged for activation. -/
def State.judgeActivation (s : State) : State := activateLoop s.commands.flushAllQueue.length s

/-- The status of a normal completion: OK, or the worst failure status (R75). -/
def FlushAllRecord.status (f : FlushAllRecord) : Status := f.worst.getD .ok

/-- R75: the active flush-all completes when the count of its old epoch has reached 0, and the next entry is judged. -/
def State.judgeFlushAll (s : State) : State :=
  match s.writeBack.activeFlushAll with
  | some f => if s.unclean f.oldEpoch = 0 then (s.endFlushAll f.status).judgeActivation else s
  | none => s

/-- R76, R77, R78: the active flush-all ends before its count has reached 0, and the retag walk starts with its old epoch. -/
def State.cutFlushAll (s : State) (st : Status) : State :=
  match s.writeBack.activeFlushAll with
  | some f =>
    let s := s.endFlushAll st
    { s with writeBack := { s.writeBack with walk := some { nextSet := 0, epoch := f.oldEpoch } } }
  | none => s

/-! ### Outcomes of a clean -/

/-- R63: a clean succeeds, up to its relookup pass, with its set change. The slot has been freed. In a fenced set a line that becomes CLEAN counts as salvaged, and one that
becomes DIRTY is placed for salvage (R54, R160). -/
def State.cleanSucceeds (s : State) (l : LineId) : State × Bool :=
  let s :=
    match (s.line l).state with
    | .cleaning b e =>
      let s := (s.setLineState l (.clean b)).uncleanDown e
      let f := (s.cacheSet l.set).fence
      if s.isFenced l.set then
        s.setFence l.set { f with salvaged := min (f.salvaged + 1) Config.maxFenceCount }
      else s
    | .redirty b e re =>
      ((((s.setLineState l (.dirty b re)).uncleanDown e).uncleanUp re).joinDirty l).salvageIfFenced l
    | .invalid | .filling .. | .clean _ | .dirty .. => s
  (s.answerWatchers l .ok).afterChange l

/-- R66, R161: an unclean line of a fenced set is dropped. -/
def State.dropLine (s : State) (l : LineId) : State :=
  let ws := (s.line l).watchers.map Watcher.bop
  let s := s.giveUpUnclean l
  let s := completeAll .fenced ws (s.setWatchers l [])
  let s := s.enterInvalid l
  let f := (s.cacheSet l.set).fence
  s.setFence l.set { f with salvageFailures := min (f.salvageFailures + 1) Config.maxFenceCount }

/-- R65 items 1 to 3: the line returns to DIRTY, retagged if its epoch is not current (a failure against an active flush-all,
R74), and joins the tail of the dirty order list. -/
def State.returnDirty (s : State) (l : LineId) (st : Status) : State :=
  let now := s.writeBack.currentEpoch
  let back (b : Nat) (e : Epoch) : State :=
    let s :=
      if e = now then s.setLineState l (.dirty b e)
      else (((s.setLineState l (.dirty b now)).uncleanDown e).uncleanUp now).flushAllFailure st
    s.joinDirty l
  match (s.line l).state with
  | .cleaning b e => back b e
  | .redirty b e _ => back b e
  | .invalid | .filling .. | .clean _ | .dirty .. => s

/-- R65, R66: a clean fails finally, up to its relookup pass. The slot has been freed. Its line returns to DIRTY or is dropped, which serves
its access queue (R3). -/
def State.failClean (s : State) (l : LineId) (st : Status) : State :=
  ((if s.isFenced l.set then s.dropLine l else (s.returnDirty l st).answerWatchers l st).serve l).1

/-! ### The retag walk -/

/-- A line retagged from the walk's epoch (R51, R79). -/
def LineState.retag (st : LineState) (old now : Epoch) : LineState :=
  match st with
  | .dirty b e => .dirty b (if e = old then now else e)
  | .cleaning b e => .cleaning b (if e = old then now else e)
  | .redirty b e re => .redirty b (if e = old then now else e) (if re = old then now else re)
  | .invalid => .invalid
  | .filling b src => .filling b src
  | .clean b => .clean b

/-- R79 items 2 and 3 for one way. -/
def State.retagLine (s : State) (old : Epoch) (l : LineId) : State :=
  let now := s.writeBack.currentEpoch
  let st := (s.line l).state
  let s := s.setLineState l (st.retag old now)
  if st.epoch = some old then (s.uncleanDown old).uncleanUp now else s

/-- R79 item 1: the block fields are checked, and a failure on a set that is not fenced fences it. -/
def State.checkSet (s : State) (S : SetId) : State :=
  if s.isFenced S then s
  else
    match (s.cacheSet S).badWay with
    | some w => s.fenceSet S w
    | none => s

/-- R79, R80: a visit of the retag walk; the visit to set 4,095 ends it and judges the flush-all queue. -/
def State.walkVisit (s : State) (w : RetagWalk) : State :=
  let s := s.checkSet w.nextSet
  let s := (List.finRange 8).foldl (fun s v => s.retagLine w.epoch ⟨w.nextSet, v⟩) s
  if w.nextSet.val = 4095 then
    ({ s with writeBack := { s.writeBack with walk := none } } : State).judgeActivation
  else { s with writeBack := { s.writeBack with walk := some { w with nextSet := w.nextSet + 1 } } }

/-! ### Releasing fenced sets -/

/-- The 32-bit result of an UNFENCE SET (Table 9.6). -/
def FenceRecord.result (f : FenceRecord) : Nat := f.salvaged + 256 * f.salvageFailures + 65536 * bit f.lost

/-- R163: a releasing set that is empty of work is reinitialised, and its UNFENCE SET posts the fence counts. -/
def State.judgeUnfenceSet (s : State) (S : SetId) : State :=
  match (s.cacheSet S).fence.releasing with
  | some c =>
    if s.emptyOfWork S then (s.setCacheSet S CacheSet.reset).finish c .ok (s.cacheSet S).fence.result else s
  | none => s

/-- R162: every releasing set is judged at the end of an event, in ascending number.
DESIGN CHOICE for that order (notes/assumptions/23.md). -/
def State.judgeUnfence (s : State) : State :=
  s.directory.sets.foldl (fun s e => s.judgeUnfenceSet (Fin.ofNat 4096 e.1)) s

end Sys2Proof.Machine
end

