-- ==== Sys2Proof/Machine/Media.lean ====
section
/-! DEFINITION. The Media Port: the issue arbiter (R86 to R88), fills (R45 to R47), retries (R94), final failures (R95), the
matching of responses (R89 to R92), link loss and re-announcement (R99, R100), and the end of an event of the cache machinery. -/

namespace Sys2Proof.Machine

/-! ### The issue arbiter -/

/-- A media timer, in microseconds, for a timeout in milliseconds. -/
def timerOf (timeout : Nat) : Option Nat := some (1000 * timeout)

/-- The block a line's request names: the line's block field (R87, R88). -/
def State.blockOf (s : State) (l : LineId) : Nat := ((s.line l).state.block).getD 0

/-- R87: the line at the head of the fill queue is issued into a FREE slot as a READ request, attempt 0. -/
def State.issueFill (s : State) (i : SlotId) (l : LineId) : State :=
  let s : State := { s with media := { s.media with fillQueue := s.media.fillQueue.filter (· != l) } }
  let b := s.blockOf l
  let s := s.setSlot i (some (s.freshSlot .awaiting .fill b l 0 (timerOf s.media.timeout) false))
  s.mediaSend (.read (requestHeader .fill i 0 b))

/-- R88: a clean is issued into a FREE slot and its draw begins (R60); the state change serves the line's access queue, and it is a set
change, whose pass the run makes. -/
def State.issueClean (s : State) (i : SlotId) (l : LineId) : State :=
  let b := s.blockOf l
  let s := s.setSlot i (some (s.freshSlot .drawing .clean b l 0 none false))
  let s := s.mediaSend (.writeHeader (requestHeader .clean i 0 b))
  ((s.beginDraw l).afterChange l).1

/-- One issue of the arbiter (R86), with the set that it changed: a fill's issue changes none, a draw that of its line (R60). Absent when
nothing can be issued. -/
def State.issueOne (s : State) : Option (State × Option SetId) :=
  if s.media.link = .down then none
  else
    match firstFree s.media.slots with
    | none => none
    | some i =>
      match s.supply, s.media.fillQueue with
      | some l, q =>
        if s.cleansInFlight < Config.cleanFloor then some (s.issueClean i l, some l.set)
        else
          match q with
          | f :: _ => some (s.issueFill i f, none)
          | [] => if s.cleansInFlight < Config.cleanCeiling then some (s.issueClean i l, some l.set) else none
      | none, f :: _ => some (s.issueFill i f, none)
      | none, [] => none

/-- The sets that a run has changed, after an issue that changed `drawn`; one whose pass the event has run already does not join them
(R21). -/
def noteDraw (passed : List SetId) (drawn : Option SetId) (changed : List SetId) : List SetId :=
  match drawn with
  | some S => noteChange (!passed.contains S) S changed
  | none => changed

/-- R86: issues one after another, each judged afresh, with the active flush-all judged before each (R75). When nothing more can be issued,
one relookup pass is run for each set that the draws have changed (R21), and what the passes leave to issue is issued in turn. A set in
`passed` has had the pass of this event.
DEDUCED for the place and the order of the passes (notes/assumptions/11.md, 23.md). -/
def issueLoop : Nat → List SetId → List SetId → State → State
  | 0, _, _, s => s.judgeFlushAll
  | n + 1, passed, changed, s =>
    let s := s.judgeFlushAll
    match s.issueOne with
    | some r => issueLoop n passed (noteDraw passed r.2 changed) r.1
    | none => if changed.isEmpty then s else issueLoop n (passed ++ changed) [] (passAll changed s)

/-- R86, R87: a run of the issue arbiter, after the passes over `passed`. Each issue takes a slot that no request is under way for, and
there are 32; passes are run at most once after each issue. -/
def State.issueArbiter (s : State) (passed : List SetId) : State := issueLoop 64 passed [] s

/-- The end of an event of the cache machinery whose passes over `passed` have been run: the active flush-all and the issue arbiter (R75,
R87), releasing sets (R162), then the host side.
DEDUCED (notes/assumptions/11.md). -/
def State.settleAfter (s : State) (passed : List SetId) : State := (s.issueArbiter passed).judgeUnfence.settleHost

/-- The end of an event that made no set change, or has run the passes of its steps itself (R99). -/
def State.settle (s : State) : State := s.settleAfter []

/-- The end of an event that made set changes in the sets: one relookup pass for each (R21), and the rest. -/
def State.settleSets (s : State) (changed : List SetId) : State := (passAll changed s).settleAfter changed

/-- The end of an event that made a set change in the set if the flag says so. -/
def State.settleIf (s : State) (changed : Bool) (S : SetId) : State := s.settleSets (if changed then [S] else [])

/-! ### Fills -/

/-- R45: a fill lands, up to its relookup pass; the flag says that it made a set change. The slot has been freed. In a fenced set the
bytes are written and the line becomes INVALID. -/
def State.fillLands (s : State) (l : LineId) (data : List Byte) : State × Bool :=
  let s := s.setFrame l data
  if s.isFenced l.set then (s.enterInvalid l).afterChange l
  else
    match (s.line l).state with
    | .filling b _ => ((s.setLineState l (.clean b)).touchWay l).afterChange l
    | .invalid | .clean _ | .dirty .. | .cleaning .. | .redirty .. => (s, false)

/-- The BOPs of an access queue ahead of its first WRITE, and those from that WRITE on (R46). -/
def splitAtWrite : List Bop → List Bop × List Bop
  | [] => ([], [])
  | b :: bs =>
    if b.kind = .write then ([], b :: bs)
    else
      let r := splitAtWrite bs
      (b :: r.1, r.2)

/-- R46: the BOPs ahead of the first WRITE complete, a DISCARD with OK, the others with the failure status. -/
def failQueued (st : Status) : List Bop → State → State
  | [], s => s
  | b :: bs, s => failQueued st bs (s.completeBop b (if b.kind = .discard then .ok else st))

/-- R46, R47: a fill fails finally, up to its relookup pass; the flag says that it made a set change. The slot has been freed, or the
line has left the fill queue. The walk stops at the first WRITE, which takes the line over as FILLING (HOST), or leaves the line
INVALID. -/
def State.failFill (s : State) (l : LineId) (st : Status) : State × Bool :=
  if s.isFenced l.set then (((s.enterInvalid l).serve l).1, true)
  else
    match (s.line l).state with
    | .filling b _ =>
      let r := splitAtWrite (s.line l).accessQueue
      let s := failQueued st r.1 (s.setAccessQueue l r.2)
      match r.2 with
      | w :: rest => (((s.setAccessQueue l rest).setLineState l (.filling b .host)).startWrite l w, true)
      | [] => (s.enterInvalid l, true)
    | .invalid | .clean _ | .dirty .. | .cleaning .. | .redirty .. => (s, false)

/-! ### Retries and final failures -/

/-- R94: a retry of a slot's request, up to its relookup pass; the flag says that it made a set change, as a redraw does that makes its
line CLEANING. -/
def State.retry (s : State) (i : SlotId) (m : MediaSlot) : State × Bool :=
  match m.kind with
  | .fill =>
    let s := s.setSlot i (some (s.freshSlot .awaiting .fill m.block m.line (m.attempt + 1) (timerOf s.media.timeout) m.orphan))
    (s.mediaSend (.read (requestHeader .fill i (m.attempt + 1) m.block)), false)
  | .clean =>
    if (s.line m.line).exclusive then (s.setSlot i (some { m with state := .redrawWait, timer := none }), false)
    else
      let before := (s.line m.line).state
      let s := s.beginRedraw i m
      if (s.line m.line).state = before then (s, false) else s.afterChange m.line

/-- R95: a final failure of a slot that is not an orphan, up to its relookup pass; the flag says that it made a set change. Every
status but OFFLINE reports a MEDIA fault. -/
def State.failSlot (s : State) (i : SlotId) (m : MediaSlot) (st : Status) : State × Bool :=
  let s := if st = .offline then s else s.reportFault (.media m.block m.kind st)
  let s := s.setSlot i none
  match m.kind with
  | .fill => s.failFill m.line st
  | .clean => (s.failClean m.line st, true)

/-! ### Responses (R89 to R92) -/

/-- R89: the response matches the slot. -/
def MediaSlot.accepts (m : MediaSlot) (attempt block : Nat) : Bool :=
  m.state == .awaiting && m.attempt == attempt && m.block == block

/-- How a matching response is judged (R89): DONE with a fill's data, DONE for a clean, BUSY, or FAULT, as which every malformed
shape is taken. -/
inductive Judged where
  | doneFill (data : List Byte)
  | doneClean
  | busy
  | fault
deriving DecidableEq, Repr

/-- R89: the shape and the result of a matching response (result 0 DONE, 1 FAULT, 2 BUSY). -/
def judgeResponse (k : SlotKind) (result : Nat) (data : Option (List Byte)) : Judged :=
  match k, data with
  | .fill, some d => if result = 0 then .doneFill d else .fault
  | .fill, none => if result = 2 then .busy else .fault
  | .clean, none => if result = 0 then .doneClean else if result = 2 then .busy else .fault
  | .clean, some _ => .fault

/-- R90 to R92: a matching response acts on its slot, up to its relookup pass; the flag says that it made a set change. -/
def State.actOnResponse (s : State) (i : SlotId) (m : MediaSlot) (r : Judged) : State × Bool :=
  if m.orphan then (s.setSlot i none, false)
  else
    match r with
    | .doneFill d => (s.setSlot i none).fillLands m.line d
    | .doneClean => (s.setSlot i none).cleanSucceeds m.line
    | .fault => s.failSlot i m .mediaFault
    | .busy =>
      if m.attemptsRemain then (s.setSlot i (some { m with state := .backoff, timer := some Config.busyDelay }), false)
      else s.failSlot i m .mediaBusy

/-! ### Link loss (R99) and re-announcement (R100) -/

/-- R61, R97, R99: the draw of a slot is abandoned: its read hold is released, which serves the access queue. -/
def State.abandonDraw (s : State) (m : MediaSlot) : State × Bool :=
  if m.kind = .clean ∧ m.state = .drawing then s.releaseRead m.line else (s, false)

/-- What R99 step 2 has come to: how many slots have failed with OFFLINE, and the sets changed, in the order of their first change. -/
structure SlotLosses where
  failed : Nat
  changed : List SetId
deriving DecidableEq, Repr

/-- R99 step 2 for one slot, up to the relookup passes of the step. -/
def State.loseSlot (s : State) (i : SlotId) (k : SlotLosses) : State × SlotLosses :=
  match s.slot i with
  | none => (s, k)
  | some m =>
    let r := s.abandonDraw m
    if m.orphan then (r.1.setSlot i none, { k with changed := noteChange r.2 m.line.set k.changed })
    else
      let f := r.1.failSlot i m .offline
      (f.1, { failed := k.failed + 1, changed := noteChange (r.2 || f.2) m.line.set k.changed })

/-- R99 step 2: every slot in ascending number. -/
def loseSlots : List SlotId → State × SlotLosses → State × SlotLosses
  | [], r => r
  | i :: is, r => loseSlots is (r.1.loseSlot i r.2)

/-- R99 step 3: every line of the fill queue fails with OFFLINE in queue order, leaving the queue as it fails; with the sets
changed. -/
def loseFills : List LineId → State × List SetId → State × List SetId
  | [], r => r
  | l :: ls, r =>
    if l ∈ r.1.media.fillQueue then
      let s : State := { r.1 with media := { r.1.media with fillQueue := r.1.media.fillQueue.filter (· != l) } }
      let f := s.failFill l .offline
      loseFills ls (f.1, noteChange f.2 l.set r.2)
    else loseFills ls r

/-- R99 step 4: the active flush-all completes with OFFLINE, or with its worst status if that ranks higher, and the walk starts. -/
def State.loseFlushAll (s : State) : State :=
  match s.writeBack.activeFlushAll with
  | some f => s.cutFlushAll (f.status.worse .offline)
  | none => s

/-- R99 step 5 for one set: every DIRTY line of a fenced set is dropped, ways ascending.
DESIGN CHOICE for that order, as for the ascending order of the sets (notes/assumptions/23.md). -/
def State.dropDirty (s : State) (S : SetId) : State :=
  if s.isFenced S then
    (List.finRange 8).foldl (fun s w => if (s.line ⟨S, w⟩).state.isDirty then s.dropLine ⟨S, w⟩ else s) s
  else s

/-- R99: the link loss event, in its order. It is taken while the link is UP. The set changes of a step are followed by one relookup pass
for each set, at the end of the step (R21).
DEDUCED for the place and the order of the passes (notes/assumptions/13.md). DESIGN CHOICE for the order of the sets in step 5, ascending
(notes/assumptions/23.md). -/
def State.loseLink (s : State) (reason : LinkLossReason) : State :=
  let s : State := { s with media := { s.media with link := .down } }
  let r := loseSlots (List.finRange 32) (s, { failed := 0, changed := [] })
  let s := passAll r.2.changed r.1
  let f := loseFills s.media.fillQueue (s, [])
  let s := (passAll f.2 f.1).loseFlushAll
  let s := s.directory.sets.foldl (fun s e => s.dropDirty (Fin.ofNat 4096 e.1)) s
  s.reportFault (.link reason r.2.failed)

/-- An announced capacity is valid (R82). -/
def capacityValid (c : Nat) : Bool := 1 ≤ c && c ≤ Config.maxCapacity

/-- R82, R100: the capacity takes the announced value and the link goes UP, if the value is valid. -/
def State.linkUp (s : State) (capacity : Nat) : State :=
  if capacityValid capacity then { s with media := { s.media with link := .up, capacity := capacity } } else s

end Sys2Proof.Machine
end

