-- ==== Sys2Proof/Machine/Engine.lean ====
section
/-! DEFINITION. Engine Control and the register window: enable (R126, R174), quiesce (R175 to R177), resets (R179 to R181), index
registers (R129, R130) and register writes (R169, R170, R172, R185). -/

namespace Sys2Proof.Machine

/-- The four fields of a write to ENGINE CONTROL (R170). -/
structure ControlWrite where
  enable : Bool
  quiesce : Bool
  flushOnQuiesce : Bool
  softReset : Bool
deriving DecidableEq, Repr

/-- R179: a soft reset. Every block takes its soft reset state; the link state, the capacity, the admin ring registers, the bytes
of the frame store and whether the host link is usable are kept. The streams of what was already issued are kept too. -/
def State.softReset (s : State) : State :=
  { State.reset with
    media := { MediaPort.reset with link := s.media.link, capacity := s.media.capacity, requests := s.media.requests },
    host := { HostPort.reset with
      adminSubmissionBase := s.host.adminSubmissionBase, adminCompletionBase := s.host.adminCompletionBase,
      adminRingSizes := s.host.adminRingSizes, linkUsable := s.host.linkUsable, writes := s.host.writes,
      reads := s.host.reads },
    frames := s.frames, pending := s.pending }

/-- SR0 as ENABLE creates it (R126). -/
def adminSr (base entries : Nat) : SubmissionRing :=
  { state := .active, base := base, entries := entries, head := 0, tail := 0, boundCr := 0, weight := 1,
    fetchInFlight := false }

/-- A completion ring as it is created: head, tail, reserved and unsignalled 0, phase 1, nothing in flight (R126, R128). -/
def newCr (base entries : Nat) (vector : VectorId) (interruptsOn : Bool) (coalesceCount coalesceTime : Nat) :
    CompletionRing :=
  { state := .active, base := base, entries := entries, tail := 0, head := 0, phase := true, reserved := 0, postQueue := [],
    writeInFlight := none, vector := vector, interruptsOn := interruptsOn, coalesceCount := coalesceCount,
    coalesceTime := coalesceTime, unsignalled := 0, timer := none }

/-- R126: the admin pair is created from the admin ring registers. -/
def State.createAdminPair (s : State) : State :=
  let s := s.setSr 0 (some (adminSr s.host.adminSubmissionBase.toNat (s.host.adminRingSizes.toNat % 65536)))
  s.setCr 0 (some (newCr s.host.adminCompletionBase.toNat (s.host.adminRingSizes.toNat / 65536) 0 true 1 0))

/-- R174: ENABLE written as 1 while DISABLED. With valid admin registers the admin pair is created, the engine goes RUNNING and
the fetch arbiter runs; otherwise the enable refused flag is set. -/
def State.tryEnable (s : State) : State :=
  if s.adminRegistersValid then
    let s := s.createAdminPair
    ({ s with engine := { s.engine with state := .running, enableRefused := false } } : State).fetchArbiter
  else { s with engine := { s.engine with enableRefused := true } }

/-- R175: RUNNING goes to QUIESCING. -/
def State.enterQuiescing (s : State) : State := { s with engine := { s.engine with state := .quiescing } }

/-- R177: QUIESCING or QUIESCED returns to RUNNING, and the residue flag is cleared. -/
def State.returnToRunning (s : State) : State :=
  { s with engine := { s.engine with state := .running, quiesceResidue := false } }

/-- R170: a write to ENGINE CONTROL. SOFT_RESET is judged first; otherwise FLUSH_ON_QUIESCE is stored, and ENABLE and QUIESCE act by
the engine state. On entering RUNNING the fetch arbiter runs (R133). An event that leaves the engine QUIESCING ends as any event of
the cache machinery does: the issue arbiter sees a change of flush mode, and the quiesce condition is judged (R175, R176). -/
def State.writeControl (s : State) (w : ControlWrite) : State :=
  if w.softReset then s.softReset
  else
    let s := { s with engine := { s.engine with flushOnQuiesce := w.flushOnQuiesce } }
    match s.engine.state with
    | .disabled => if w.enable then s.tryEnable else s
    | .running => if w.quiesce then s.enterQuiescing.settle else s
    | .quiescing => if w.quiesce then s.settle else s.returnToRunning.fetchArbiter
    | .quiesced => if w.quiesce then s else s.returnToRunning.fetchArbiter
    | .halted => s

/-- A register write reaches the SC6 only while the host link is usable (R180). -/
def State.ifUsable (s t : State) : State := if s.host.linkUsable then t else s

/-- R129, R185: a write to a submission ring's tail index register. -/
def State.writeSrTail (s : State) (n : RingId) (v : Nat) : State :=
  match s.sr n with
  | some q =>
    match q.state with
    | .active =>
      if v < q.entries then (s.setSr n (some { q with tail := v })).fetchArbiter
      else (s.faultSr n .badIndex).settleHost
    | .draining _ _ => s
    | .faulted => s
  | none => s

/-- R130, R185: a write to a completion ring's head index register. -/
def State.writeCrHead (s : State) (n : RingId) (v : Nat) : State :=
  match s.cr n with
  | some r =>
    match r.state with
    | .active =>
      if r.inSpan v then (s.setCr n (some { r with head := v })).fetchArbiter
      else (s.faultCr n .badIndex).settleHost
    | .faulted => s
  | none => s

/-- R172: a write to an admin ring register is taken while the engine is DISABLED. -/
def State.writeAdmin (s : State) (h : HostPort) : State :=
  if s.engine.state = .disabled then { s with host := h } else s

/-- One half of a 64-bit base register replaced (R169). -/
def replaceLow (b : BitVec 64) (v : Nat) : BitVec 64 := BitVec.ofNat 64 (b.toNat / 4294967296 * 4294967296 + v)

/-- The other half. -/
def replaceHigh (b : BitVec 64) (v : Nat) : BitVec 64 := BitVec.ofNat 64 (v * 4294967296 + b.toNat % 4294967296)

/-- An aligned 4-byte write of `v` at `offset` (R169, Table 9.13): one event at the register; read-only registers and offsets
without a register ignore it. -/
def State.writeWord (s : State) (offset v : Nat) : State :=
  if offset = 0x000 then
    s.writeControl { enable := v % 2 == 1, quiesce := v / 2 % 2 == 1, flushOnQuiesce := v / 4 % 2 == 1,
                     softReset := v / 8 % 2 == 1 }
  else if offset = 0x020 then
    s.writeAdmin { s.host with adminSubmissionBase := replaceLow s.host.adminSubmissionBase v }
  else if offset = 0x024 then
    s.writeAdmin { s.host with adminSubmissionBase := replaceHigh s.host.adminSubmissionBase v }
  else if offset = 0x028 then
    s.writeAdmin { s.host with adminCompletionBase := replaceLow s.host.adminCompletionBase v }
  else if offset = 0x02C then
    s.writeAdmin { s.host with adminCompletionBase := replaceHigh s.host.adminCompletionBase v }
  else if offset = 0x030 then s.writeAdmin { s.host with adminRingSizes := BitVec.ofNat 32 v }
  else if 0x100 ≤ offset ∧ offset < 0x140 then s.writeSrTail (Fin.ofNat 16 ((offset - 0x100) / 4)) v
  else if 0x180 ≤ offset ∧ offset < 0x1C0 then s.writeCrHead (Fin.ofNat 16 ((offset - 0x180) / 4)) v
  else s

/-- R169: a write of `size` bytes at `offset`. An aligned access of 4 bytes is one event; one of 8 bytes at a base register
writes the whole address; one of 8 bytes elsewhere is two accesses of 4 bytes, the lower first; any other is ignored.
DEDUCED (notes/assumptions/15.md). -/
def State.writeWindow (s : State) (offset size : Nat) (value : BitVec 64) : State :=
  if size = 4 ∧ offset % 4 = 0 then s.writeWord offset (value.toNat % 4294967296)
  else if size = 8 ∧ offset % 8 = 0 then
    if offset = 0x020 then s.writeAdmin { s.host with adminSubmissionBase := value }
    else if offset = 0x028 then s.writeAdmin { s.host with adminCompletionBase := value }
    else (s.writeWord offset (value.toNat % 4294967296)).writeWord (offset + 4) (value.toNat / 4294967296)
  else s

end Sys2Proof.Machine
end

