-- ==== Sys2Proof/Machine/Intake.lean ====
section
/-! DEFINITION. Intake: a record's arrival (R106), its validation (R107 to R111) and its dispatch (R112); the search and the removal
of ABORT (R119 to R121). -/

namespace Sys2Proof.Machine

/-- The context a record's arrival makes (R104, R106): the fields copied, worst status OK, no failing offset, result 0, not
aborting, nothing created. The state is the one dispatch then sets. -/
def arrivedCommand (sr : RingId) (reserved : Bool) (r : Record) : Command :=
  { state := .executing, sr := sr, reserved := reserved, record := r, created := 0, outstanding := 0, worst := .ok,
    failing := none, result := 0, aborting := false, notice := none }

/-- Intake check 4 (R110): another in-flight context of the same ring holds the command id. -/
def State.duplicateId (s : State) (c : CtxId) (sr : RingId) (id : Nat) : Bool :=
  (List.finRange 128).any fun d =>
    match s.command d with
    | some cmd => d != c && cmd.sr == sr && Rec.commandId cmd.record == id
    | none => false

/-- Intake check 3 (R109): the block range of a range command lies below the capacity. -/
def State.rangeValid (s : State) (k : CommandKind) (r : Record) : Bool :=
  match k.bopKind with
  | some _ => Rec.firstBlock r + Rec.blockCount r ≤ s.media.capacity
  | none => true

/-- Intake check 5 (R111): the resources needed at intake are available. -/
def State.roomFor (s : State) (k : CommandKind) : Bool :=
  match k with
  | .flushAll => s.commands.flushAllQueue.length < Config.flushAllEntries
  | .awaitNotice => s.commands.noticeRequests.length < Config.noticeEntries
  | .read | .write | .flush | .discard | .pin | .unpin | .createSr | .createCr | .deleteSr | .deleteCr | .setRingOptions
  | .setCleaner | .setMediaParams | .reportGeometry | .readSet | .unfenceSet | .abort => true

/-- R107, checks 2 to 5 in order for a record that holds the command: the status of the first that fails. -/
def State.intakeStatus (s : State) (k : CommandKind) (c : CtxId) (sr : RingId) (r : Record) : Status :=
  if fieldsValid k r = false then .invalidField
  else if s.rangeValid k r = false then .outOfRange
  else if s.duplicateId c sr (Rec.commandId r) then .duplicateId
  else if s.roomFor k = false then .busy
  else .ok

/-- The record at the head of the intake queue, with the ring and reservation of its context (R135). -/
structure Arrival where
  ctx : CtxId
  sr : RingId
  reserved : Bool
  record : Record
  rest : List FetchedRecord
deriving DecidableEq, Repr

/-- The record that arrives next, absent when the intake queue is empty.
DESIGN CHOICE (notes/assumptions/5.md). -/
def State.arrival (s : State) : Option Arrival :=
  match s.rings.intake with
  | [] => none
  | f :: rest =>
    match s.ctx f.ctx with
    | .fetching n res => some { ctx := f.ctx, sr := n, reserved := res, record := f.record, rest := rest }
    | .free => none
    | .holding _ => none

/-- The record leaves the intake queue and its fields are copied into its context (R106, R135). -/
def State.takeArrival (s : State) (a : Arrival) : State :=
  let s : State := { s with rings := { s.rings with intake := a.rest } }
  s.setCtx a.ctx (.holding (arrivedCommand a.sr a.reserved a.record))

/-- The arrival of a record that holds command `k` (R106, R107, R112): the first failing check posts its status, and a command that
passes is dispatched. If the record that arrives next does not hold `k`, this arrival does not happen. -/
def State.arrive (s : State) (k : CommandKind) (dispatch : State → CtxId → Record → State) (finish : State → State) :
    State :=
  match s.arrival with
  | some a =>
    if commandOf a.sr a.record = some k then
      let st := s.intakeStatus k a.ctx a.sr a.record
      let s := s.takeArrival a
      if st = .ok then finish (dispatch s a.ctx a.record) else (s.finish a.ctx st 0).settleHost
    else s
  | none => s

/-- R112: a range command becomes SPLITTING and splitting begins (R114). -/
def dispatchRange (s : State) (c : CtxId) (_ : Record) : State :=
  match s.command c with
  | some cmd => (s.setCtx c (.holding { cmd with state := .splitting })).beginSplitting c
  | none => s

/-- The arrival of a range command. -/
def State.arriveRange (s : State) (k : CommandKind) : State := s.arrive k dispatchRange State.settleHost

/-! ### ABORT -/

/-- Whether the context is the one ABORT seeks (R119): the ring and the id match, it is SPLITTING, RUNNING or EXECUTING, and on ring 0
it holds an AWAIT NOTICE that has not been delivered a class. -/
def State.isAbortTarget (s : State) (n : RingId) (id : Nat) (c : CtxId) : Bool :=
  match s.command c with
  | some cmd =>
    cmd.sr == n && Rec.commandId cmd.record == id && cmd.state != .posting &&
      (match commandOf cmd.sr cmd.record with
       | some k => if n = 0 then k == .awaitNotice && s.commands.noticeRequests.contains c else !k.isAdmin
       | none => false)
  | none => false

/-- The target of an ABORT, absent when it is not found (R119). -/
def State.abortTarget (s : State) (n : RingId) (id : Nat) : Option CtxId :=
  (List.finRange 128).find? fun c => s.isAbortTarget n id c

/-- R120 step 1: an uncreated offset of a SPLITTING target is taken as ABORTED without changing the BOPs outstanding, the context
leaves the split queue, and its splitting ends. -/
def State.abortUnsplit (s : State) (c : CtxId) : State :=
  match s.command c with
  | some cmd =>
    if cmd.state = .splitting then
      let s := s.setCtx c (.holding (cmd.take .aborted cmd.created))
      let s := { s with commands := { s.commands with splitQueue := s.commands.splitQueue.filter (· != c) } }
      s.endSplitting c
    else s
  | none => s

/-- R120 step 2: the target's BOPs awaiting lookup complete with ABORTED. -/
def State.abortAwaiting (s : State) (c : CtxId) : State :=
  let q := s.commands.awaitingLookup
  let s := { s with commands := { s.commands with awaitingLookup := q.filter (·.ctx != c) } }
  completeAll .aborted (q.filter (·.ctx == c)) s

/-- R120 step 3 at one line: a BOP of the target leaves the access queue with ABORTED and the queue is served (R16). The flag says that
this made a set change. -/
def State.abortQueued (s : State) (c : CtxId) (l : LineId) : State × Bool :=
  let q := (s.line l).accessQueue
  if q.any (·.ctx == c) then
    let s := completeAll .aborted (q.filter (·.ctx == c)) (s.setAccessQueue l (q.filter (·.ctx != c)))
    let emptied := (s.line l).accessQueue.isEmpty
    let r := s.serve l
    (r.1, emptied || r.2)
  else (s, false)

/-- R120 step 4 at one set: the target's BOPs in the set wait list leave it with ABORTED (R19). -/
def State.abortWaiting (s : State) (c : CtxId) (S : SetId) : State :=
  let q := (s.cacheSet S).waitList
  if q.any (·.ctx == c) then completeAll .aborted (q.filter (·.ctx == c)) (s.setWaitList S (q.filter (·.ctx != c))) else s

/-- R120 step 5 at one line: the target's watchers leave with ABORTED; clean wanted and the urgent queue stay (R71). -/
def State.abortWatching (s : State) (c : CtxId) (l : LineId) : State :=
  let ws := (s.line l).watchers
  if ws.any (·.bop.ctx == c) then
    completeAll .aborted ((ws.filter (·.bop.ctx == c)).map Watcher.bop) (s.setWatchers l (ws.filter (·.bop.ctx != c)))
  else s

/-- Step 3 over the ways of a set. -/
def abortQueuedWays (c : CtxId) (S : SetId) : List WayId → State × Bool → State × Bool
  | [], r => r
  | w :: ws, r =>
    let q := r.1.abortQueued c ⟨S, w⟩
    abortQueuedWays c S ws (q.1, r.2 || q.2)

/-- Step 3 over the sets of the command's blocks, with the sets in which it made a set change. -/
def abortQueuedSets (c : CtxId) : List SetId → State × List SetId → State × List SetId
  | [], r => r
  | S :: Ss, r =>
    let q := abortQueuedWays c S (List.finRange 8) (r.1, false)
    abortQueuedSets c Ss (q.1, if q.2 then r.2 ++ [S] else r.2)

/-- The sets of a range command's blocks, in ascending offset; at most 256, so all different. -/
def commandSets (r : Record) : List SetId := (List.range (Rec.blockCount r)).map fun k => setOf (Rec.firstBlock r + k)

/-- R120: a found range command, with the sets that step 3 changed, whose relookup passes come at the end of the event (R21). Active BOPs
are not touched.
DEDUCED (notes/assumptions/14.md). -/
def State.abortRange (s : State) (c : CtxId) (cmd : Command) : State × List SetId :=
  let sets := commandSets cmd.record
  let s := (s.abortUnsplit c).abortAwaiting c
  let r := abortQueuedSets c sets (s, [])
  let s := sets.foldl (fun s S => s.abortWaiting c S) r.1
  let s := sets.foldl (fun s S => (List.finRange 8).foldl (fun s w => s.abortWatching c ⟨S, w⟩) s) s
  (s, r.2)

/-- R77, R121: a found FLUSH ALL. The active one is cut short; a queued one leaves the queue, and if it was the head the next is judged. -/
def State.abortFlushAll (s : State) (c : CtxId) : State :=
  if s.writeBack.activeFlushAll.isSome ∧ s.commands.flushAllQueue.head? = some c then s.cutFlushAll .aborted
  else
    let s := { s with commands := { s.commands with flushAllQueue := s.commands.flushAllQueue.filter (· != c) } }
    (s.finish c .aborted 0).judgeActivation

/-- R121: a found AWAIT NOTICE leaves the request list and posts ABORTED; the capture table is not changed. -/
def State.abortNotice (s : State) (c : CtxId) : State :=
  let s := { s with commands := { s.commands with noticeRequests := s.commands.noticeRequests.filter (· != c) } }
  s.finish c .aborted 0

/-- R119 to R121: what ABORT does to a found target, with the sets changed: the target is marked aborting and acted on. A target already
marked aborting is not changed further. -/
def State.abortFound (s : State) (c : CtxId) : State × List SetId :=
  match s.command c with
  | some cmd =>
    if cmd.aborting then (s, [])
    else
      let s := s.setCtx c (.holding { cmd with aborting := true })
      match commandOf cmd.sr cmd.record with
      | some .flushAll => (s.abortFlushAll c, [])
      | some .awaitNotice => (s.abortNotice c, [])
      | some _ => s.abortRange c cmd
      | none => (s, [])
  | none => (s, [])

end Sys2Proof.Machine
end

