-- ==== Sys2Proof/Machine/AdminCommands.lean ====
section
/-! DEFINITION. The arrivals of the admin commands (Table 5.3, Table 5.6) and of a record that names no command (R107). Each
`dispatch` is the execution of a command that has passed intake; its context is EXECUTING. -/

namespace Sys2Proof.Machine

/-! ### Rings -/

/-- The completion ring is ACTIVE. -/
def State.crActive (s : State) (n : RingId) : Bool :=
  match s.cr n with
  | some r => r.state == .active
  | none => false

/-- The submission ring as CREATE SUBMISSION RING makes it (R127). -/
def createdSr (r : Record) : SubmissionRing :=
  { state := .active, base := Rec.ringBase r, entries := Rec.ringEntries r, head := 0, tail := 0,
    boundCr := Rec.ringId (Rec.boundCr r), weight := Rec.weight r, fetchInFlight := false }

/-- R127. -/
def dispatchCreateSubmissionRing (s : State) (c : CtxId) (r : Record) : State :=
  let n := Rec.ringId (Rec.targetRing r)
  if n = 0 ∨ (s.sr n).isSome ∨ s.crActive (Rec.ringId (Rec.boundCr r)) = false then s.finish c .stateConflict 0
  else (s.setSr n (some (createdSr r))).finish c .ok 0

/-- CREATE SUBMISSION RING arrives (R127). -/
def execCreateSubmissionRing (s : State) : Host.Outcome State Fault Refusal :=
  .next (s.arrive .createSr dispatchCreateSubmissionRing State.settleHost)

/-- The completion ring as CREATE COMPLETION RING makes it (R128). -/
def createdCr (r : Record) : CompletionRing :=
  newCr (Rec.ringBase r) (Rec.ringEntries r) (Fin.ofNat 16 (Rec.vector r)) (Rec.interruptsOn r == 1)
    (Rec.createCoalesceCount r) (Rec.coalesceTime r)

/-- R128. -/
def dispatchCreateCompletionRing (s : State) (c : CtxId) (r : Record) : State :=
  let n := Rec.ringId (Rec.targetRing r)
  if n = 0 ∨ (s.cr n).isSome then s.finish c .stateConflict 0
  else (s.setCr n (some (createdCr r))).finish c .ok 0

/-- CREATE COMPLETION RING arrives (R128). -/
def execCreateCompletionRing (s : State) : Host.Outcome State Fault Refusal :=
  .next (s.arrive .createCr dispatchCreateCompletionRing State.settleHost)

/-- R137: an ACTIVE or FAULTED ring becomes DRAINING with its unfetched count and pending delete; if nothing of it is in flight
the delete completes at once (R138), and otherwise the context stays EXECUTING. -/
def dispatchDeleteSubmissionRing (s : State) (c : CtxId) (r : Record) : State :=
  let n := Rec.ringId (Rec.targetRing r)
  if n = 0 then s.finish c .stateConflict 0
  else
    match s.sr n with
    | some q =>
      match q.state with
      | .active | .faulted => (s.setSr n (some { q with state := .draining q.waiting c })).judgeDelete n
      | .draining _ _ => s.finish c .stateConflict 0
    | none => s.finish c .stateConflict 0

/-- DELETE SUBMISSION RING arrives (R137, R138). -/
def execDeleteSubmissionRing (s : State) : Host.Outcome State Fault Refusal :=
  .next (s.arrive .deleteSr dispatchDeleteSubmissionRing State.settleHost)

/-- A submission ring that is not UNUSED is bound to the completion ring (R139). -/
def State.crBound (s : State) (n : RingId) : Bool :=
  (List.finRange 16).any fun m =>
    match s.sr m with
    | some q => q.boundCr == n
    | none => false

/-- R139. -/
def dispatchDeleteCompletionRing (s : State) (c : CtxId) (r : Record) : State :=
  let n := Rec.ringId (Rec.targetRing r)
  if n = 0 ∨ s.cr n = none ∨ s.crBound n = true then s.finish c .stateConflict 0
  else (s.setCr n none).finish c .ok 0

/-- DELETE COMPLETION RING arrives (R139). -/
def execDeleteCompletionRing (s : State) : Host.Outcome State Fault Refusal :=
  .next (s.arrive .deleteCr dispatchDeleteCompletionRing State.settleHost)

/-- R147, items before 1 and item 1: the new options; a change of interrupts on acts as R146 gives. -/
def CompletionRing.takeOptions (q : CompletionRing) (r : Record) : CompletionRing :=
  let on := Rec.interruptsOn r == 1
  { q with
    interruptsOn := on, coalesceCount := Rec.setCoalesceCount r, coalesceTime := Rec.coalesceTime r,
    unsignalled := if on = q.interruptsOn then q.unsignalled else 0,
    timer := if on = q.interruptsOn then q.timer else none }

/-- R147, items 3 and 4: a running timer is stopped by a coalesce time of 0, and a stopped one starts if records are
unsignalled. -/
def CompletionRing.judgeTimer (q : CompletionRing) : CompletionRing :=
  { q with timer :=
      if q.timer.isSome then (if q.coalesceTime = 0 then none else q.timer)
      else if q.interruptsOn = true ∧ 1 ≤ q.unsignalled ∧ 0 < q.coalesceTime then some q.coalesceTime
      else none }

/-- R147 for a completion ring that is ACTIVE: the options, the message of item 2, and the timer. -/
def State.setCrOptions (s : State) (n : RingId) (q : CompletionRing) (r : Record) (permitted : Bool) : State :=
  let q := q.takeOptions r
  let s := s.setCr n (some q)
  let s := if q.messageDue then s.sendInterrupt n permitted else s
  match s.cr n with
  | some q => s.setCr n (some q.judgeTimer)
  | none => s

/-- R147. -/
def dispatchSetRingOptions (permitted : Bool) (s : State) (c : CtxId) (r : Record) : State :=
  let n := Rec.ringId (Rec.targetRing r)
  if Rec.ringKind r = 0 then
    match s.sr n with
    | some q =>
      if n = 0 ∨ q.state ≠ .active then s.finish c .stateConflict 0
      else (s.setSr n (some { q with weight := Rec.weight r })).finish c .ok 0
    | none => s.finish c .stateConflict 0
  else
    match s.cr n with
    | some q =>
      if q.state ≠ .active then s.finish c .stateConflict 0 else (s.setCrOptions n q r permitted).finish c .ok 0
    | none => s.finish c .stateConflict 0

/-- SET RING OPTIONS arrives (R147). -/
def execSetRingOptions (permitted : Bool) (s : State) : Host.Outcome State Fault Refusal :=
  .next (s.arrive .setRingOptions (dispatchSetRingOptions permitted) State.settleHost)

/-! ### Parameters -/

/-- R57: the marks are replaced and the pressure flag is judged. -/
def dispatchSetCleaner (s : State) (c : CtxId) (r : Record) : State :=
  let s : State := { s with writeBack := { s.writeBack with highMark := Rec.highMark r, lowMark := Rec.lowMark r } }
  s.judgePressure.finish c .ok 0

/-- SET CLEANER arrives (R57); the issue arbiter runs at its end (R87). -/
def execSetCleaner (s : State) : Host.Outcome State Fault Refusal :=
  .next (s.arrive .setCleaner dispatchSetCleaner State.settle)

/-- R101: both media parameters are replaced; slots in use keep what they took. -/
def dispatchSetMediaParams (s : State) (c : CtxId) (r : Record) : State :=
  let s : State := { s with media := { s.media with timeout := Rec.mediaTimeout r, retryLimit := Rec.retryLimit r } }
  s.finish c .ok 0

/-- SET MEDIA PARAMS arrives (R101). -/
def execSetMediaParams (s : State) : Host.Outcome State Fault Refusal :=
  .next (s.arrive .setMediaParams dispatchSetMediaParams State.settleHost)

/-! ### Records written to host memory -/

/-- R118: the geometry values are taken and their record's write is issued. -/
def dispatchReportGeometry (s : State) (_ : CtxId) (r : Record) : State :=
  s.hostWrite (.geometry (Rec.bufferAddress r) s.geometryRecord)

/-- REPORT GEOMETRY arrives (R118). -/
def execReportGeometry (s : State) : Host.Outcome State Fault Refusal :=
  .next (s.arrive .reportGeometry dispatchReportGeometry State.settleHost)

/-- R152: the lowest unreported class is delivered at once, or the request joins the list. -/
def dispatchAwaitNotice (s : State) (c : CtxId) (_ : Record) : State :=
  match s.unreportedClass with
  | some k => s.deliver c k
  | none => { s with commands := { s.commands with noticeRequests := s.commands.noticeRequests ++ [c] } }

/-- AWAIT NOTICE arrives (R152, R153). -/
def execAwaitNotice (s : State) : Host.Outcome State Fault Refusal :=
  .next (s.arrive .awaitNotice dispatchAwaitNotice State.settleHost)

/-- R164: the snapshot of the set is taken and its write is issued. -/
def dispatchReadSet (s : State) (_ : CtxId) (r : Record) : State :=
  s.hostWrite (.snapshot (Rec.bufferAddress r) ((s.cacheSet (Rec.setId r)).snapshotRecord (Rec.setId r)))

/-- READ SET arrives (R164). -/
def execReadSet (s : State) : Host.Outcome State Fault Refusal :=
  .next (s.arrive .readSet dispatchReadSet State.settleHost)

/-! ### Fenced sets, ABORT, and records that name no command -/

/-- R162: a fenced set that is not releasing becomes releasing for this context. Whether it is empty of work is judged at the end of
the event (`State.judgeUnfence`). -/
def dispatchUnfenceSet (s : State) (c : CtxId) (r : Record) : State :=
  let f := (s.cacheSet (Rec.setId r)).fence
  if f.failedWay = none ∨ f.releasing ≠ none then s.finish c .stateConflict 0
  else s.setFence (Rec.setId r) { f with releasing := some c }

/-- UNFENCE SET arrives (R162, R163). -/
def execUnfenceSet (s : State) : Host.Outcome State Fault Refusal :=
  .next (s.arrive .unfenceSet dispatchUnfenceSet State.settle)

/-- R119: a found target is acted on, and ABORT completes OK with result 1; otherwise it changes nothing and completes OK with
result 0. -/
def dispatchAbort (s : State) (c : CtxId) (r : Record) : State :=
  match s.abortTarget (Rec.ringId (Rec.targetRing r)) (Rec.targetCommandId r) with
  | some t =>
    let r := s.abortFound t
    (r.1.finish c .ok 1).settleSets r.2
  | none => (s.finish c .ok 0).settle

/-- ABORT arrives (R119 to R121). -/
def execAbort (s : State) : Host.Outcome State Fault Refusal := .next (s.arrive .abort dispatchAbort id)

/-- The arrival of a record whose opcode names no command of its ring's set (R107 check 1, R182). -/
def State.arriveUnnamed (s : State) : State :=
  match s.arrival with
  | some a =>
    match commandOf a.sr a.record with
    | none => ((s.takeArrival a).finish a.ctx .invalidOpcode 0).settleHost
    | some _ => s
  | none => s

/-- Such a record posts INVALID_OPCODE (R107). -/
def execOpcodeNamesNoCommand (s : State) : Host.Outcome State Fault Refusal := .next s.arriveUnnamed

end Sys2Proof.Machine
end

