-- ==== Sys2Proof/Machine/BlockEvents.lean ====
section
/-! DEFINITION. The events of the Line Directory and the data mover (chapters 1 and 2): a lookup, a check code going bad, and the ends
of read-outs and write-ins. -/

namespace Sys2Proof.Machine

/-- R4: the block operation awaiting lookup is taken out of its place and looked up. -/
def State.lookUp (s : State) (c : CtxId) (offset : Nat) : State :=
  match s.commands.awaitingLookup.find? fun b => b.ctx == c && b.offset == offset with
  | some b =>
    let s : State := { s with commands := { s.commands with awaitingLookup := s.commands.awaitingLookup.erase b } }
    let r := s.lookupEvent b
    r.1.settleIf r.2 (setOf b.block)
  | none => s

/-- A block operation awaiting lookup is looked up (R4). -/
def execLookup (ctx : CtxId) (offset : Nat) (s : State) : Host.Outcome State Fault Refusal := .next (s.lookUp ctx offset)

/-- R5: the code of a way that is not INVALID goes bad, and nothing else changes. -/
def State.spoilCode (s : State) (l : LineId) : State :=
  if (s.line l).state = .invalid then s else s.setLine l { s.line l with checkBad := true }

/-- A way's check code goes bad (R5). -/
def execCheckCodeGoesBad (set : SetId) (way : WayId) (s : State) : Host.Outcome State Fault Refusal :=
  .next (s.spoilCode ⟨set, way⟩)

/-! ### Read-outs -/

/-- The HOST_BUS record of a transfer: its address, its kind, and the ring and command id of its block operation's context
(Table 7.1). -/
def State.transferFault (s : State) (t : Transfer) (k : HostTransferKind) : FaultRecord :=
  match s.command t.bop.ctx with
  | some cmd => .hostBus t.address k cmd.sr (Rec.commandId cmd.record)
  | none => .hostBus t.address k 0 0

/-- The line was given up or dropped while a transfer held it (R42, R161): a held line is INVALID only then. -/
def State.gaveUp (s : State) (l : LineId) : Bool := (s.line l).state == .invalid

/-- R37, R42: a read-out succeeds. -/
def State.readOutEnds (s : State) (i : ChannelId) (t : Transfer) : State :=
  let l := t.line
  let gone := s.gaveUp l
  let r := (s.hostWrite (.readOut t.address (s.frame l))).releaseRead l
  let s := if gone then r.1 else r.1.touchWay l
  let s := (s.completeBop t.bop (if gone then .fenced else .ok)).releaseChannel i
  s.settleIf r.2 l.set

/-- R38, R42: the host link refuses a write of a read-out. -/
def State.readOutRefuses (s : State) (i : ChannelId) (t : Transfer) : State :=
  let l := t.line
  let gone := s.gaveUp l
  let fault := s.transferFault t .readOut
  let r := (s.hostWrite (.readOutRefused t.address)).releaseRead l
  let s := r.1.completeBop t.bop (if gone then .fenced else .hostBusError)
  let s := (s.reportFault fault).releaseChannel i
  s.settleIf r.2 l.set

/-- The read-out that holds the channel. -/
def State.readOutOn (s : State) (i : ChannelId) : Option Transfer := (s.channel i).filter fun t => t.kind == .readOut

/-- A read-out has issued all its writes (R37). -/
def execReadOutCompletes (channel : ChannelId) (s : State) : Host.Outcome State Fault Refusal :=
  .next (match s.readOutOn channel with
    | some t => s.readOutEnds channel t
    | none => s)

/-- The host link refuses a write of a read-out (R38). -/
def execReadOutRefused (channel : ChannelId) (s : State) : Host.Outcome State Fault Refusal :=
  .next (match s.readOutOn channel with
    | some t => s.readOutRefuses channel t
    | none => s)

/-! ### Write-ins -/

/-- The write-in that holds the channel. -/
def State.writeInOn (s : State) (i : ChannelId) : Option Transfer := (s.channel i).filter fun t => t.kind == .writeIn

/-- The cells of bytes that begin at a position. -/
def cellsAt (position : Nat) : List Byte → List Host.Cell
  | [] => []
  | b :: bs => (position, b) :: cellsAt (position + 1) bs

/-- A piece of data can have returned for the write-in: it is not empty, lies within the block, answers reads that were unanswered,
and covers no byte received before (R36, R39). -/
def Transfer.takes (t : Transfer) (position : Nat) (data : List Byte) : Bool :=
  !data.isEmpty && position + data.length ≤ 4096 && data.length ≤ t.outstanding &&
    t.gather.all fun c => c.1 < position || position + data.length ≤ c.1

/-- R39: the piece is placed in its position of the gather buffer, which lists bytes by rising position. -/
def Transfer.place (t : Transfer) (position : Nat) (data : List Byte) : Transfer :=
  { t with
    gather := t.gather.filter (fun c => decide (c.1 < position)) ++ cellsAt position data ++
      t.gather.filter (fun c => decide (position + data.length ≤ c.1)),
    received := t.received + data.length, outstanding := t.outstanding - data.length }

/-- The channel of a write-in that has failed keeps BUSY until its reads are all answered (R36, R41). -/
def State.settleChannel (s : State) (i : ChannelId) (t : Transfer) : State :=
  if t.outstanding = 0 then s.releaseChannel i else s.setChannel i (some t)

/-- R40: a write-in commits the gathered block. Its waiting as a DURABLE watcher begins before the release of its hold, so that a
redraw that the release begins answers it (R69).
DEDUCED (notes/assumptions/12.md). -/
def State.commit (s : State) (i : ChannelId) (t : Transfer) : State :=
  let l := t.line
  let s := ((s.setFrame l (t.gather.map Prod.snd)).touchWay l).commitLine l
  let s := if t.bop.durable then s.watchNext l t.bop else s
  let r := s.releaseExclusive l
  let s := if t.bop.durable then r.1 else r.1.completeBop t.bop .ok
  (s.releaseChannel i).settleIf r.2 l.set

/-- R42: a write-in on a way that was given up makes no commit. -/
def State.commitNothing (s : State) (i : ChannelId) (t : Transfer) : State :=
  let l := t.line
  let r := s.releaseExclusive l
  ((r.1.completeBop t.bop .fenced).releaseChannel i).settleIf r.2 l.set

/-- R39, R40: a piece of data returns. A failed write-in discards it. -/
def State.dataReturns (s : State) (i : ChannelId) (t : Transfer) (position : Nat) (data : List Byte) : State :=
  if t.takes position data = false then s
  else if t.error then s.settleChannel i { t with outstanding := t.outstanding - data.length }
  else
    let t := t.place position data
    if t.received = 4096 then (if s.gaveUp t.line then s.commitNothing i t else s.commit i t)
    else s.setChannel i (some t)

/-- Read data returns for a write-in (R39). -/
def execWriteInData (channel : ChannelId) (position : Nat) (data : List Byte) (s : State) :
    Host.Outcome State Fault Refusal :=
  .next (match s.writeInOn channel with
    | some t => s.dataReturns channel t position data
    | none => s)

/-- R41 steps 2 and 3: the exclusive hold is released. A FILLING (HOST) line becomes INVALID and its queue is relooked (R17). -/
def State.releaseFailed (s : State) (l : LineId) : State × Bool :=
  if (s.line l).state.isFilling then
    let q := (s.line l).accessQueue
    let s := s.setLine l { s.line l with exclusive := false, accessQueue := [] }
    (relookDetached q (s.enterInvalid l), true)
  else s.releaseExclusive l

/-- R41, R42: a write-in fails with reads of `unanswered` bytes left unanswered. -/
def State.writeInFails (s : State) (i : ChannelId) (t : Transfer) (unanswered : Nat) : State :=
  let l := t.line
  let gone := s.gaveUp l
  let fault := s.transferFault t .writeIn
  let r := s.releaseFailed l
  let s := r.1.completeBop t.bop (if gone then .fenced else .hostBusError)
  let s := (s.reportFault fault).settleChannel i { t with gather := [], error := true, outstanding := unanswered }
  s.settleIf r.2 l.set

/-- R39: a read of a write-in is refused or reported failed. A second failed read changes nothing but what is unanswered. -/
def State.readFails (s : State) (i : ChannelId) (t : Transfer) (unanswered : Nat) : State :=
  if t.outstanding ≤ unanswered then s
  else if t.error then s.settleChannel i { t with outstanding := unanswered }
  else s.writeInFails i t unanswered

/-- A read of a write-in fails (R39, R41). -/
def execWriteInReadFailed (channel : ChannelId) (unanswered : Nat) (s : State) : Host.Outcome State Fault Refusal :=
  .next (match s.writeInOn channel with
    | some t => s.readFails channel t unanswered
    | none => s)

end Sys2Proof.Machine
end

