-- ==== Sys2Proof/Machine/EngineEvents.lean ====
section
/-! DEFINITION. The events of Engine Control and of the host link (chapter 8): writes of ENGINE CONTROL, resets, register writes,
interrupt vectors. -/

namespace Sys2Proof.Machine

/-- ENGINE CONTROL is written with ENABLE 1 (R170, R174). -/
def execEnable (quiesceBit flushBit : Bool) (s : State) : Host.Outcome State Fault Refusal :=
  .next (s.ifUsable
    (s.writeControl { enable := true, quiesce := quiesceBit, flushOnQuiesce := flushBit, softReset := false }))

/-- ENGINE CONTROL is written with QUIESCE 1 (R170, R175). -/
def execQuiesce (enableBit flushBit : Bool) (s : State) : Host.Outcome State Fault Refusal :=
  .next (s.ifUsable
    (s.writeControl { enable := enableBit, quiesce := true, flushOnQuiesce := flushBit, softReset := false }))

/-- ENGINE CONTROL is written with QUIESCE 0 (R170, R177). -/
def execQuiesceCleared (enableBit flushBit : Bool) (s : State) : Host.Outcome State Fault Refusal :=
  .next (s.ifUsable
    (s.writeControl { enable := enableBit, quiesce := false, flushOnQuiesce := flushBit, softReset := false }))

/-- ENGINE CONTROL is written with a value of FLUSH_ON_QUIESCE (R170, R176). -/
def execFlushOnQuiesce (flushBit enableBit quiesceBit : Bool) (s : State) : Host.Outcome State Fault Refusal :=
  .next (s.ifUsable
    (s.writeControl { enable := enableBit, quiesce := quiesceBit, flushOnQuiesce := flushBit, softReset := false }))

/-- ENGINE CONTROL is written with SOFT_RESET 1 (R170, R179). -/
def execSoftReset (enableBit quiesceBit flushBit : Bool) (s : State) : Host.Outcome State Fault Refusal :=
  .next (s.ifUsable
    (s.writeControl { enable := enableBit, quiesce := quiesceBit, flushOnQuiesce := flushBit, softReset := true }))

/-- Whether the host link can carry register accesses and transactions changes (R180). -/
def State.setLinkUsable (s : State) (usable : Bool) : State := { s with host := { s.host with linkUsable := usable } }

/-- The host link reports a reset: a soft reset, and no register access until the link is usable (R180). -/
def execHostLinkReset (s : State) : Host.Outcome State Fault Refusal := .next (s.softReset.setLinkUsable false)

/-- The host link is usable again (R180). -/
def execHostLinkUsable (s : State) : Host.Outcome State Fault Refusal := .next (s.setLinkUsable true)

/-- Power is first applied (R181). The commands that wait are the world's and stay.
DESIGN CHOICE (notes/assumptions/20.md). -/
def execPowerOn (s : State) : Host.Outcome State Fault Refusal := .next { State.reset with pending := s.pending }

/-- A write to the register window (R169, R172, R185). -/
def execRegisterWrite (offset size : Nat) (value : BitVec 64) (s : State) : Host.Outcome State Fault Refusal :=
  .next (s.ifUsable (s.writeWindow offset size value))

/-- R168: the host link permits messages on a vector; a pending one is issued. -/
def State.unmask (s : State) (v : VectorId) : State :=
  if s.host.vectorPending[v] then
    ({ s with host := { s.host with vectorPending := s.host.vectorPending.set v false } } : State).hostWrite (.message v)
  else s

/-- The host link permits messages on the vector (R168). -/
def execVectorUnmasked (vector : VectorId) (s : State) : Host.Outcome State Fault Refusal := .next (s.unmask vector)

end Sys2Proof.Machine
end

