-- ==== Sys2Proof/Machine/IoCommands.lean ====
section
/-! DEFINITION. The arrivals of the I/O commands (Table 5.2, R114, R68, R72). -/

namespace Sys2Proof.Machine

/-- READ arrives: validated, then split into READ block operations (R107, R112, R114). -/
def execRead (s : State) : Host.Outcome State Fault Refusal := .next (s.arriveRange .read)

/-- WRITE arrives; each block operation carries the command's DURABLE flag (R107, R112, R114). -/
def execWrite (s : State) : Host.Outcome State Fault Refusal := .next (s.arriveRange .write)

/-- FLUSH arrives: validated, then split into FLUSH block operations (R68, R107, R114). -/
def execFlush (s : State) : Host.Outcome State Fault Refusal := .next (s.arriveRange .flush)

/-- R72, R112: FLUSH ALL joins the tail of the flush-all queue, EXECUTING, and may activate at once (R73). -/
def dispatchFlushAll (s : State) (c : CtxId) (_ : Record) : State :=
  ({ s with commands := { s.commands with flushAllQueue := s.commands.flushAllQueue ++ [c] } } : State).judgeActivation

/-- FLUSH ALL arrives (R72, R107, R112). -/
def execFlushAll (s : State) : Host.Outcome State Fault Refusal :=
  .next (s.arrive .flushAll dispatchFlushAll State.settle)

/-- DISCARD arrives: validated, then split into DISCARD block operations (R33, R107, R114). -/
def execDiscard (s : State) : Host.Outcome State Fault Refusal := .next (s.arriveRange .discard)

/-- PIN arrives: validated, then split into PIN block operations (R32, R107, R114). -/
def execPin (s : State) : Host.Outcome State Fault Refusal := .next (s.arriveRange .pin)

/-- UNPIN arrives: validated, then split into UNPIN block operations (R34, R107, R114). -/
def execUnpin (s : State) : Host.Outcome State Fault Refusal := .next (s.arriveRange .unpin)

end Sys2Proof.Machine
end

