-- ==== Sys2Proof/Machine/MediaEvents.lean ====
section
/-! DEFINITION. The events of the Media Port and of the retag walk (chapters 3 and 4). -/

namespace Sys2Proof.Machine

/-- R61: the draw of a slot completes. The request is whole, the timer starts, and the read hold is released. -/
def State.drawEnds (s : State) (i : SlotId) (m : MediaSlot) : State :=
  let s := s.mediaSend (.writeData i m.attempt (s.frame m.line))
  let r := (s.setSlot i (some { m with state := .awaiting, timer := timerOf m.timeout })).releaseRead m.line
  r.1.settleIf r.2 m.line.set

/-- The slot if it is in the state. -/
def State.slotIn (s : State) (i : SlotId) (st : SlotState) : Option MediaSlot := (s.slot i).filter fun m => m.state == st

/-- The last byte of a draw goes onto the media link (R61). -/
def execDrawCompletes (slot : SlotId) (s : State) : Host.Outcome State Fault Refusal :=
  .next (match s.slotIn slot .drawing with
    | some m => s.drawEnds slot m
    | none => s)

/-- R89, R184: a response is handed to the slot that its tag names, and dropped if it does not match. -/
def State.takeResponse (s : State) (message : List Byte) : State :=
  match parseMessage message with
  | .response i attempt block result data =>
    match s.slot i with
    | some m =>
      if m.accepts attempt block then
        let r := s.actOnResponse i m (judgeResponse m.kind result data)
        r.1.settleIf r.2 m.line.set
      else s
    | none => s
  | .announce _ => s
  | .discarded => s

/-- A response arrives (R89 to R92). -/
def execResponse (message : List Byte) (s : State) : Host.Outcome State Fault Refusal := .next (s.takeResponse message)

/-- A message that is neither a response nor an ANNOUNCE is discarded and changes nothing (R184). -/
def execUnknownMessage (_message : List Byte) (s : State) : Host.Outcome State Fault Refusal := .next s

/-- R93, R97: the response timer of an AWAITING slot expires. -/
def State.timeOut (s : State) (i : SlotId) (m : MediaSlot) : State :=
  let r := if m.orphan then (s.setSlot i none, false) else if m.attemptsRemain then s.retry i m else s.failSlot i m .mediaTimeout
  r.1.settleIf r.2 m.line.set

/-- The response timer expires (R93). -/
def execResponseTimeout (slot : SlotId) (s : State) : Host.Outcome State Fault Refusal :=
  .next (match s.slotIn slot .awaiting with
    | some m => s.timeOut slot m
    | none => s)

/-- R92, R94: the busy delay of a slot ends. -/
def State.retryEnds (s : State) (i : SlotId) (m : MediaSlot) : State :=
  let r := s.retry i m
  r.1.settleIf r.2 m.line.set

/-- The busy delay expires, and the slot retries (R92, R94). -/
def execBusyDelayExpires (slot : SlotId) (s : State) : Host.Outcome State Fault Refusal :=
  .next (match s.slotIn slot .backoff with
    | some m => s.retryEnds slot m
    | none => s)

/-- R82, R100: an ANNOUNCE. While the link is DOWN an invalid capacity is ignored; while it is UP the loss of R99 comes first. -/
def State.takeAnnounce (s : State) (message : List Byte) : State :=
  match parseMessage message with
  | .announce capacity =>
    match s.media.link with
    | .down => if capacityValid capacity then (s.linkUp capacity).settle else s
    | .up => ((s.loseLink .reAnnounce).linkUp capacity).settle
  | .response .. => s
  | .discarded => s

/-- An ANNOUNCE arrives (R82, R100, R184). -/
def execAnnounce (message : List Byte) (s : State) : Host.Outcome State Fault Refusal := .next (s.takeAnnounce message)

/-- The link layer reports link loss; while the link is DOWN it has no effect (R82, R99). -/
def execLinkLoss (s : State) : Host.Outcome State Fault Refusal :=
  .next (match s.media.link with
    | .up => (s.loseLink .lost).settle
    | .down => s)

/-- The retag walk visits its next set (R79, R80). -/
def execRetagWalkVisit (s : State) : Host.Outcome State Fault Refusal :=
  .next (match s.writeBack.walk with
    | some w => (s.walkVisit w).settle
    | none => s)

end Sys2Proof.Machine
end

