-- ==== Sys2Proof/Machine/RecordWrites.lean ====
section
/-! DEFINITION. The ends of the writes of notice, snapshot and geometry records (R118, R154, R164). -/

namespace Sys2Proof.Machine

/-- The command of the context, if it is EXECUTING and is of the kind. -/
def State.executing (s : State) (c : CtxId) (k : CommandKind) : Option Command :=
  (s.command c).filter fun cmd => cmd.state == .executing && commandOf cmd.sr cmd.record == some k

/-- The HOST_BUS record of a record write (Table 7.1): buffer address, kind, SR 0 and the command id. -/
def recordFault (cmd : Command) (k : HostTransferKind) : FaultRecord :=
  .hostBus (Rec.bufferAddress cmd.record) k 0 (Rec.commandId cmd.record)

/-- A record's write is accepted: its command posts OK (R118, R164). -/
def State.recordWritten (s : State) (c : CtxId) (k : CommandKind) : State :=
  match s.executing c k with
  | some _ => (s.finish c .ok 0).settleHost
  | none => s

/-- A record's write is refused: a HOST_BUS fault is reported and its command posts HOST_BUS_ERROR (R118, R164). -/
def State.recordRefused (s : State) (c : CtxId) (k : CommandKind) (t : HostTransferKind) : State :=
  match s.executing c k with
  | some cmd => ((s.reportFault (recordFault cmd t)).finish c .hostBusError 0).settleHost
  | none => s

/-- The AWAIT NOTICE of the context and the notice being written for it. -/
def State.noticeInFlight (s : State) (c : CtxId) : Option (Command × Notice) :=
  match s.executing c .awaitNotice with
  | some cmd =>
    match cmd.notice with
    | some n => some (cmd, n)
    | none => none
  | none => none

/-- R154: the notice write is accepted; the command posts OK with the class number. -/
def State.noticeWritten (s : State) (c : CtxId) : State :=
  match s.noticeInFlight c with
  | some (_, n) => (s.finish c .ok n.faultClass.val).settleHost
  | none => s

/-- R154: the notice write is refused; the notice is merged back, then a HOST_BUS fault is reported, and the command posts
HOST_BUS_ERROR with the class number. -/
def State.noticeRefused (s : State) (c : CtxId) : State :=
  match s.noticeInFlight c with
  | some (cmd, n) =>
    (((s.mergeNotice n).reportFault (recordFault cmd .notice)).finish c .hostBusError n.faultClass.val).settleHost
  | none => s

/-- The notice write is accepted (R154). -/
def execNoticeWriteSucceeds (ctx : CtxId) (s : State) : Host.Outcome State Fault Refusal := .next (s.noticeWritten ctx)

/-- The notice write is refused (R154). -/
def execNoticeWriteFails (ctx : CtxId) (s : State) : Host.Outcome State Fault Refusal := .next (s.noticeRefused ctx)

/-- The snapshot write is accepted (R164). -/
def execSnapshotWriteSucceeds (ctx : CtxId) (s : State) : Host.Outcome State Fault Refusal :=
  .next (s.recordWritten ctx .readSet)

/-- The snapshot write is refused (R164). -/
def execSnapshotWriteFails (ctx : CtxId) (s : State) : Host.Outcome State Fault Refusal :=
  .next (s.recordRefused ctx .readSet .snapshot)

/-- The geometry record write is accepted (R118). -/
def execGeometryWriteSucceeds (ctx : CtxId) (s : State) : Host.Outcome State Fault Refusal :=
  .next (s.recordWritten ctx .reportGeometry)

/-- The geometry record write is refused (R118). -/
def execGeometryWriteFails (ctx : CtxId) (s : State) : Host.Outcome State Fault Refusal :=
  .next (s.recordRefused ctx .reportGeometry .geometry)

end Sys2Proof.Machine
end

