-- ==== Sys2Proof/Machine/RingEvents.lean ====
section
/-! DEFINITION. The events of the Ring Unit (chapter 6): index writes, the ends of a fetch, the ends of a completion write, and the
coalescing timer. -/

namespace Sys2Proof.Machine

/-- A write of SR`ring` TAIL (R129). -/
def execSrTailWrite (ring : RingId) (value : BitVec 32) (s : State) : Host.Outcome State Fault Refusal :=
  .next (s.ifUsable (s.writeSrTail ring value.toNat))

/-- A write of CR`ring` HEAD (R130). -/
def execCrHeadWrite (ring : RingId) (value : BitVec 32) (s : State) : Host.Outcome State Fault Refusal :=
  .next (s.ifUsable (s.writeCrHead ring value.toNat))

/-! ### The ends of a fetch -/

/-- The head after one more record has been fetched (R135 step 1). -/
def SubmissionRing.nextHead (q : SubmissionRing) : Nat := if q.head + 1 < q.entries then q.head + 1 else 0

/-- R135 step 2: an ACTIVE completion ring takes the reservation. -/
def State.reserve (s : State) (n : RingId) : State × Bool :=
  match s.cr n with
  | some r => if r.state = .active then (s.setCr n (some { r with reserved := r.reserved + 1 }), true) else (s, false)
  | none => (s, false)

/-- R138: the outcome of a fetch of a DRAINING ring is discarded. -/
def State.discardFetch (s : State) (f : Fetch) (q : SubmissionRing) : State :=
  ((s.setSr f.sr (some { q with fetchInFlight := false })).freeContext f.ctx).settleHost

/-- R135 for a ring that is not DRAINING: head, reservation, flag, intake queue, arbiter. -/
def State.acceptFetch (s : State) (f : Fetch) (q : SubmissionRing) (record : Record) : State :=
  let s := s.setSr f.sr (some { q with head := q.nextHead, fetchInFlight := false })
  let r := s.reserve q.boundCr
  let s := r.1.setCtx f.ctx (.fetching f.sr r.2)
  let s : State := { s with rings := { s.rings with intake := s.rings.intake ++ [{ ctx := f.ctx, record := record }] } }
  s.fetchArbiter

/-- R136 for a ring that is not DRAINING: the context is freed and the ring faults. -/
def State.failFetch (s : State) (f : Fetch) (q : SubmissionRing) : State :=
  let s := (s.setSr f.sr (some { q with fetchInFlight := false })).freeContext f.ctx
  (s.faultSr f.sr .fetchError).settleHost

/-- The fetch in flight ends (R135, R136, R138): the engine is idle. Read data for a fetch that a soft reset abandoned finds no fetch
in flight and is discarded (R134). -/
def State.endFetch (s : State) (record : Option Record) : State :=
  match s.rings.fetch with
  | some f =>
    let s : State := { s with rings := { s.rings with fetch := none } }
    match s.sr f.sr with
    | some q =>
      match q.state, record with
      | .draining _ _, _ => s.discardFetch f q
      | .active, some rec | .faulted, some rec => s.acceptFetch f q rec
      | .active, none | .faulted, none => s.failFetch f q
    | none => s
  | none => s

/-- The fetch returns its 64 bytes (R135, R138, R186). -/
def execFetchCompletes (record : Record) (s : State) : Host.Outcome State Fault Refusal := .next (s.endFetch (some record))

/-- The host link refuses the fetch's read (R136, R138). -/
def execFetchFails (s : State) : Host.Outcome State Fault Refusal := .next (s.endFetch none)

/-! ### The ends of a completion write -/

/-- R141 steps 1 to 3 and the clearing of the flag: what a successful post makes of an ACTIVE ring before coalescing is judged. -/
def CompletionRing.posted (r : CompletionRing) : CompletionRing :=
  { r.advance.countPost with reserved := r.reserved - 1, writeInFlight := none }

/-- What the end of a write leaves of a ring whose indexes do not move (R141 last paragraph, R142). -/
def CompletionRing.unposted (r : CompletionRing) : CompletionRing :=
  { r with reserved := r.reserved - 1, writeInFlight := none }

/-- R141: a completion write succeeds. -/
def State.postSucceeds (s : State) (n : RingId) (permitted : Bool) : State :=
  match s.cr n with
  | some r =>
    match r.writeInFlight with
    | some c =>
      match r.state with
      | .active =>
        let s := s.setCr n (some r.posted)
        let s := if r.posted.messageDue then s.sendInterrupt n permitted else s
        ((s.issueRecord n).freeContext c).settleHost
      | .faulted => ((s.setCr n (some r.unposted)).freeContext c).settleHost
    | none => s
  | none => s

/-- The host link has accepted the 16 bytes (R141). -/
def execCompletionWriteSucceeds (ring : RingId) (permitted : Bool) (s : State) : Host.Outcome State Fault Refusal :=
  .next (s.postSucceeds ring permitted)

/-- R142: a completion write fails. The ring's fault acts before a delete that waited for the freed context completes. -/
def State.postFails (s : State) (n : RingId) : State :=
  match s.cr n with
  | some r =>
    match r.writeInFlight with
    | some c =>
      let sr := s.srOf c
      let s := (s.setCr n (some r.unposted)).setCtx c .free
      let s :=
        match r.state with
        | .active => s.faultCr n .postError
        | .faulted => s.reportFault (.ring .cr n .postError)
      (s.judgeDelete sr).settleHost
    | none => s
  | none => s

/-- The host link refuses the write (R142). -/
def execCompletionWriteFails (ring : RingId) (s : State) : Host.Outcome State Fault Refusal := .next (s.postFails ring)

/-! ### Coalescing -/

/-- R145: a running timer expires with records unsignalled. -/
def State.timerExpires (s : State) (n : RingId) (permitted : Bool) : State :=
  match s.cr n with
  | some r => if r.timer.isSome ∧ 1 ≤ r.unsignalled then s.sendInterrupt n permitted else s
  | none => s

/-- The coalescing timer expires (R145). -/
def execCoalescingTimerExpires (ring : RingId) (permitted : Bool) (s : State) : Host.Outcome State Fault Refusal :=
  .next (s.timerExpires ring permitted)

end Sys2Proof.Machine
end

