-- ==== Sys2Proof/Machine/Dispatch.lean ====
section
/-! DEFINITION. The meaning of every command: one arm for each row of the opcode table, in its order. -/

namespace Sys2Proof.Machine

def exec (i : Instr) (s : State) : Host.Outcome State Fault Refusal :=
  match i with
  | .read => Sys2Proof.Machine.execRead s
  | .write => Sys2Proof.Machine.execWrite s
  | .flush => Sys2Proof.Machine.execFlush s
  | .flushAll => Sys2Proof.Machine.execFlushAll s
  | .discard => Sys2Proof.Machine.execDiscard s
  | .pin => Sys2Proof.Machine.execPin s
  | .unpin => Sys2Proof.Machine.execUnpin s
  | .createSubmissionRing => Sys2Proof.Machine.execCreateSubmissionRing s
  | .createCompletionRing => Sys2Proof.Machine.execCreateCompletionRing s
  | .deleteSubmissionRing => Sys2Proof.Machine.execDeleteSubmissionRing s
  | .deleteCompletionRing => Sys2Proof.Machine.execDeleteCompletionRing s
  | .setRingOptions permitted => Sys2Proof.Machine.execSetRingOptions permitted s
  | .setCleaner => Sys2Proof.Machine.execSetCleaner s
  | .setMediaParams => Sys2Proof.Machine.execSetMediaParams s
  | .reportGeometry => Sys2Proof.Machine.execReportGeometry s
  | .awaitNotice => Sys2Proof.Machine.execAwaitNotice s
  | .readSet => Sys2Proof.Machine.execReadSet s
  | .unfenceSet => Sys2Proof.Machine.execUnfenceSet s
  | .abort => Sys2Proof.Machine.execAbort s
  | .opcodeNamesNoCommand => Sys2Proof.Machine.execOpcodeNamesNoCommand s
  | .enable quiesceBit flushBit => Sys2Proof.Machine.execEnable quiesceBit flushBit s
  | .quiesce enableBit flushBit => Sys2Proof.Machine.execQuiesce enableBit flushBit s
  | .quiesceCleared enableBit flushBit => Sys2Proof.Machine.execQuiesceCleared enableBit flushBit s
  | .flushOnQuiesce flushBit enableBit quiesceBit => Sys2Proof.Machine.execFlushOnQuiesce flushBit enableBit quiesceBit s
  | .softReset enableBit quiesceBit flushBit => Sys2Proof.Machine.execSoftReset enableBit quiesceBit flushBit s
  | .srTailWrite ring value => Sys2Proof.Machine.execSrTailWrite ring value s
  | .crHeadWrite ring value => Sys2Proof.Machine.execCrHeadWrite ring value s
  | .registerWrite offset size value => Sys2Proof.Machine.execRegisterWrite offset size value s
  | .hostLinkReset => Sys2Proof.Machine.execHostLinkReset s
  | .powerOn => Sys2Proof.Machine.execPowerOn s
  | .vectorUnmasked vector => Sys2Proof.Machine.execVectorUnmasked vector s
  | .coalescingTimerExpires ring permitted => Sys2Proof.Machine.execCoalescingTimerExpires ring permitted s
  | .fetchCompletes record => Sys2Proof.Machine.execFetchCompletes record s
  | .fetchFails => Sys2Proof.Machine.execFetchFails s
  | .completionWriteSucceeds ring permitted => Sys2Proof.Machine.execCompletionWriteSucceeds ring permitted s
  | .completionWriteFails ring => Sys2Proof.Machine.execCompletionWriteFails ring s
  | .lookup ctx offset => Sys2Proof.Machine.execLookup ctx offset s
  | .checkCodeGoesBad set way => Sys2Proof.Machine.execCheckCodeGoesBad set way s
  | .readOutCompletes channel => Sys2Proof.Machine.execReadOutCompletes channel s
  | .readOutRefused channel => Sys2Proof.Machine.execReadOutRefused channel s
  | .writeInData channel position data => Sys2Proof.Machine.execWriteInData channel position data s
  | .writeInReadFailed channel unanswered => Sys2Proof.Machine.execWriteInReadFailed channel unanswered s
  | .drawCompletes slot => Sys2Proof.Machine.execDrawCompletes slot s
  | .response message => Sys2Proof.Machine.execResponse message s
  | .unknownMessage message => Sys2Proof.Machine.execUnknownMessage message s
  | .responseTimeout slot => Sys2Proof.Machine.execResponseTimeout slot s
  | .busyDelayExpires slot => Sys2Proof.Machine.execBusyDelayExpires slot s
  | .announce message => Sys2Proof.Machine.execAnnounce message s
  | .linkLoss => Sys2Proof.Machine.execLinkLoss s
  | .retagWalkVisit => Sys2Proof.Machine.execRetagWalkVisit s
  | .noticeWriteSucceeds ctx => Sys2Proof.Machine.execNoticeWriteSucceeds ctx s
  | .noticeWriteFails ctx => Sys2Proof.Machine.execNoticeWriteFails ctx s
  | .snapshotWriteSucceeds ctx => Sys2Proof.Machine.execSnapshotWriteSucceeds ctx s
  | .snapshotWriteFails ctx => Sys2Proof.Machine.execSnapshotWriteFails ctx s
  | .geometryWriteSucceeds ctx => Sys2Proof.Machine.execGeometryWriteSucceeds ctx s
  | .geometryWriteFails ctx => Sys2Proof.Machine.execGeometryWriteFails ctx s
  | .hostLinkUsable => Sys2Proof.Machine.execHostLinkUsable s

end Sys2Proof.Machine
end

