-- ==== Sys2Proof/Safety.lean ====
section
/-! DEFINITION. What the statements are made in terms of: the laws that the state keeps, which engine state may follow which, the row
of the table that a record's arrival is, and a command that has passed intake. -/

namespace Sys2Proof.Machine

/-! ### Laws of the state -/

/-- The cleaner marks are legal and the pressure flag agrees with the dirty count (R56, R57). -/
def State.CleanerSound (s : State) : Prop :=
  s.writeBack.lowMark < s.writeBack.highMark ∧ s.writeBack.highMark ≤ 32768 ∧
    (s.writeBack.highMark ≤ s.dirtyCount → s.writeBack.pressure = true) ∧
    (s.dirtyCount ≤ s.writeBack.lowMark → s.writeBack.pressure = false)

/-- The media parameters are legal, and so are the capacity and the link: a link that is UP has announced a block (R82, R101). -/
def State.MediaSound (s : State) : Prop :=
  1 ≤ s.media.timeout ∧ s.media.timeout ≤ 10000 ∧ s.media.retryLimit ≤ 7 ∧ s.media.capacity ≤ 68719476736 ∧
    (s.media.link = .up → 1 ≤ s.media.capacity)

/-- The frame store is in its canonical form. -/
def State.FramesCanonical (s : State) : Prop := Memory.wf s.frames = true

/-- Every way of every set appears in the set's recency order exactly once (R6). -/
def State.RecencyComplete (s : State) : Prop := ∀ (S : SetId) (w : WayId), (s.cacheSet S).recency.count w = 1

/-- In every set at most 6 ways have pins above 0, and no line has more than 255 pins (R10). -/
def State.PinsLimited (s : State) : Prop :=
  ∀ S : SetId, ((List.finRange 8).countP fun w => 0 < (s.cacheSet S).ways[w].pins) ≤ 6 ∧
    ∀ w : WayId, (s.cacheSet S).ways[w].pins ≤ 255

/-- Every ring has 2..4,096 entries, and its indexes lie below them (R124, R125). -/
def State.IndexesInRange (s : State) : Prop :=
  (∀ n q, s.sr n = some q → 2 ≤ q.entries ∧ q.entries ≤ 4096 ∧ q.head < q.entries ∧ q.tail < q.entries) ∧
    ∀ n r, s.cr n = some r → 2 ≤ r.entries ∧ r.entries ≤ 4096 ∧ r.head < r.entries ∧ r.tail < r.entries

/-- While the engine is DISABLED every ring is UNUSED and no fetched record is on its way to an arrival (R148, R173). -/
def State.NoRingsWhileDisabled (s : State) : Prop :=
  s.engine.state = .disabled → s.rings.intake = [] ∧ ∀ n : RingId, s.sr n = none ∧ s.cr n = none

/-- The state that a reset gives every block, but for what a soft reset keeps (Tables 1.6, 3.6, 4.5, 5.8, 6.3 and 7.2; R43, R168,
R179). -/
def State.ResetValues (s : State) : Prop :=
  (∀ l : LineId, s.line l =
    { state := .invalid, checkBad := false, pins := 0, readers := 0, exclusive := false, accessQueue := [],
      watchers := [], cleanWanted := false }) ∧
  (∀ S : SetId, (s.cacheSet S).recency = [0, 1, 2, 3, 4, 5, 6, 7] ∧ (s.cacheSet S).waitList = [] ∧
    (s.cacheSet S).fence = { failedWay := none, lost := false, salvaged := 0, salvageFailures := 0, releasing := none }) ∧
  s.writeBack =
    { currentEpoch := .zero, unclean0 := 0, unclean1 := 0, dirtyOrder := [], urgent := [], pressure := false,
      highMark := 8192, lowMark := 4096, activeFlushAll := none, walk := none } ∧
  (∀ i : SlotId, s.slot i = none) ∧ s.media.fillQueue = [] ∧ s.media.timeout = 200 ∧ s.media.retryLimit = 3 ∧
  (∀ k : Fin 5, s.faults.entries[k] = { count := 0, first := none, unreported := false }) ∧
  (∀ c : CtxId, s.ctx c = .free) ∧ s.commands.awaitingLookup = [] ∧ s.commands.splitQueue = [] ∧
  s.commands.flushAllQueue = [] ∧ s.commands.noticeRequests = [] ∧
  (∀ n : RingId, s.sr n = none ∧ s.cr n = none) ∧ s.rings.fetch = none ∧ s.rings.intake = [] ∧ s.rings.currentSr = 1 ∧
  s.rings.grantsUsed = 0 ∧
  (∀ i : ChannelId, s.channel i = none) ∧ s.host.channelQueue = [] ∧ (∀ v : VectorId, s.host.vectorPending[v] = false) ∧
  s.engine =
    { state := .disabled, flushOnQuiesce := false, enableRefused := false, quiesceResidue := false,
      quiesceAtHalt := false }

/-! ### Engine states -/

/-- Where a command that is no reset may take the engine (Table 8.3): an ENABLE, a QUIESCE that may find its condition met in the
same event, a return to RUNNING, a halt. -/
def EngineState.mayBecome : EngineState → EngineState → Bool
  | .disabled, .disabled | .disabled, .running => true
  | .running, .running | .running, .quiescing | .running, .quiesced | .running, .halted => true
  | .quiescing, .quiescing | .quiescing, .quiesced | .quiescing, .running | .quiescing, .halted => true
  | .quiesced, .quiesced | .quiesced, .running | .quiesced, .halted => true
  | .halted, .halted => true
  | .disabled, _ | .running, _ | .quiesced, _ | .quiescing, _ | .halted, _ => false

/-- A write of ENGINE CONTROL through the window that sets SOFT_RESET (R169, R170, R185): aligned, of 4 or 8 bytes. -/
def isSoftResetWrite (offset size : Nat) (value : BitVec 64) : Bool :=
  offset == 0 && (size == 4 || size == 8) && value.toNat / 8 % 2 == 1

/-- The commands that are resets (R179 to R181). -/
def isResetCommand : Instr → Bool
  | .softReset .. | .hostLinkReset | .powerOn => true
  | .registerWrite offset size value => isSoftResetWrite offset size value
  | _ => false

/-! ### Arrivals -/

/-- The table's row for the arrival of a record that holds the command. -/
def CommandKind.row (permitted : Bool) : CommandKind → Instr
  | .read => .read
  | .write => .write
  | .flush => .flush
  | .flushAll => .flushAll
  | .discard => .discard
  | .pin => .pin
  | .unpin => .unpin
  | .createSr => .createSubmissionRing
  | .createCr => .createCompletionRing
  | .deleteSr => .deleteSubmissionRing
  | .deleteCr => .deleteCompletionRing
  | .setRingOptions => .setRingOptions permitted
  | .setCleaner => .setCleaner
  | .setMediaParams => .setMediaParams
  | .reportGeometry => .reportGeometry
  | .awaitNotice => .awaitNotice
  | .readSet => .readSet
  | .unfenceSet => .unfenceSet
  | .abort => .abort

/-- The record that arrives next holds the command and passes every intake check (R107). -/
def State.Accepts (s : State) (k : CommandKind) (a : Arrival) : Prop :=
  s.arrival = some a ∧ commandOf a.sr a.record = some k ∧ s.intakeStatus k a.ctx a.sr a.record = .ok

/-- What ABORT seeks on ring `n` with id `id` (R119): a context of that ring and id whose command has not ended, on ring 0 only an AWAIT
NOTICE that has not been delivered a class, and so still stands in the request list. -/
def State.AbortSeeks (s : State) (n : RingId) (id : Nat) (t : CtxId) (cmd : Command) : Prop :=
  s.command t = some cmd ∧ cmd.sr = n ∧ Rec.commandId cmd.record = id ∧ cmd.state ≠ .posting ∧
    (n = 0 → commandOf cmd.sr cmd.record = some .awaitNotice ∧ t ∈ s.commands.noticeRequests) ∧
    (n ≠ 0 → ∃ k, commandOf cmd.sr cmd.record = some k)

/-- The block operation of this context and offset awaits lookup (R114). -/
def State.Awaits (s : State) (c : CtxId) (offset : Nat) (b : Bop) : Prop :=
  s.commands.awaitingLookup.find? (fun x => x.ctx == c && x.offset == offset) = some b

/-- The state in which the block operation has been taken out of its place (R25). -/
def State.takenFromLookup (s : State) (b : Bop) : State :=
  { s with commands := { s.commands with awaitingLookup := s.commands.awaitingLookup.erase b } }

/-- The part of the state that the cache machinery owns is the same in both. -/
def State.SameCache (s t : State) : Prop :=
  t.directory = s.directory ∧ t.writeBack = s.writeBack ∧ t.media = s.media ∧ t.frames = s.frames

end Sys2Proof.Machine
end

