-- ==== Sys2Proof/Certificates/Slice0/Obligations.lean ====
section
/-! DEFINITION. The statements for the provers: the machine and its reset, the laws that every step keeps, what commands leave
unchanged, and for every row of the table where it completes and with what. -/

open Sys2Proof Sys2Proof.Machine

/-! ### The machine -/

/-- A step runs the command at the front of the queue on the state with the queue's rest. That an empty queue idles is the model's
choice (notes/assumptions/3.md). -/
def Obligations.StepRunsFrontCommand : Prop :=
  (∀ (s : State) (c : Instr) (rest : List Instr), s.pending = c :: rest → step s = exec c { s with pending := rest }) ∧
    ∀ s : State, s.pending = [] → step s = .next s

/-- Every command answers a next state and leaves the commands that wait as they are. That an event its state does not allow changes
nothing, and that POWER_ON keeps the queue, which is the model's own, are the model's choices (notes/assumptions/2.md, 20.md). -/
def Obligations.EveryCommandCompletesAndKeepsTheQueue : Prop :=
  ∀ (c : Instr) (s : State), ∃ t : State, exec c s = .next t ∧ t.pending = s.pending

/-! ### Resets -/

/-- R181 with Tables 1.6, 3.6, 4.5, 5.8, 6.3 and 7.2: what power-on leaves. That the queue of commands that wait, which is the model's
own, is kept is the model's choice (notes/assumptions/20.md). -/
def Obligations.PowerOnGivesResetState : Prop :=
  ∀ s : State, ∃ t : State, exec .powerOn s = .next t ∧ t.ResetValues ∧ t.media.link = .down ∧ t.media.capacity = 0 ∧
    t.host.adminSubmissionBase = 0 ∧ t.host.adminCompletionBase = 0 ∧ t.host.adminRingSizes = 0 ∧ t.pending = s.pending

/-- R179: SOFT_RESET, from any engine state and whatever the other fields, gives every block its reset values and keeps the link, the
capacity, the admin ring registers and the bytes of the frame store. -/
def Obligations.SoftResetKeepsLinkCapacityAndAdminRegisters : Prop :=
  ∀ (s : State) (e q f : Bool), s.host.linkUsable = true →
    ∃ t : State, exec (.softReset e q f) s = .next t ∧ t.ResetValues ∧ t.media.link = s.media.link ∧
      t.media.capacity = s.media.capacity ∧ t.host.adminSubmissionBase = s.host.adminSubmissionBase ∧
      t.host.adminCompletionBase = s.host.adminCompletionBase ∧ t.host.adminRingSizes = s.host.adminRingSizes ∧
      t.frames = s.frames

/-- R180: a reset of the host link is a soft reset; until the link is usable again no register access reaches the SC6. -/
def Obligations.HostLinkResetClosesTheWindow : Prop :=
  (∀ s : State, ∃ t : State, exec .hostLinkReset s = .next t ∧ t.ResetValues ∧ t.media.link = s.media.link ∧
    t.media.capacity = s.media.capacity ∧ t.host.adminSubmissionBase = s.host.adminSubmissionBase ∧
    t.host.adminCompletionBase = s.host.adminCompletionBase ∧ t.host.adminRingSizes = s.host.adminRingSizes ∧
    t.frames = s.frames ∧ t.host.linkUsable = false) ∧
  (∀ s : State, s.host.linkUsable = false →
    (∀ q f, exec (.enable q f) s = .next s) ∧ (∀ e f, exec (.quiesce e f) s = .next s) ∧
    (∀ e f, exec (.quiesceCleared e f) s = .next s) ∧ (∀ f e q, exec (.flushOnQuiesce f e q) s = .next s) ∧
    (∀ e q f, exec (.softReset e q f) s = .next s) ∧ (∀ n v, exec (.srTailWrite n v) s = .next s) ∧
    (∀ n v, exec (.crHeadWrite n v) s = .next s) ∧ (∀ o z v, exec (.registerWrite o z v) s = .next s)) ∧
  ∀ s : State, exec .hostLinkUsable s = .next { s with host := { s.host with linkUsable := true } }

/-- The state after power-on keeps every law below. -/
def Obligations.ResetStateKeepsEveryLaw : Prop :=
  State.reset.CleanerSound ∧ State.reset.MediaSound ∧ State.reset.FramesCanonical ∧ State.reset.RecencyComplete ∧
    State.reset.PinsLimited ∧ State.reset.IndexesInRange ∧ State.reset.NoRingsWhileDisabled

/-! ### Laws that every step keeps -/

/-- R56, R57: the marks stay legal, and the pressure flag is set at the high mark or above and clear at the low mark or below. -/
def Obligations.StepKeepsCleanerSound : Prop := ∀ s t : State, s.CleanerSound → step s = .next t → t.CleanerSound

/-- R82, R101: the media parameters and the capacity stay in range, and a link that is UP has a capacity. -/
def Obligations.StepKeepsMediaSound : Prop := ∀ s t : State, s.MediaSound → step s = .next t → t.MediaSound

/-- The frame store keeps its canonical form. -/
def Obligations.StepKeepsFramesCanonical : Prop :=
  ∀ s t : State, s.FramesCanonical → step s = .next t → t.FramesCanonical

/-- R6: every way appears in its set's recency order exactly once. -/
def Obligations.StepKeepsRecencyComplete : Prop :=
  ∀ s t : State, s.RecencyComplete → step s = .next t → t.RecencyComplete

/-- R10: at most 6 ways of a set are pinned, and no line has more than 255 pins. -/
def Obligations.StepKeepsPinsLimited : Prop := ∀ s t : State, s.PinsLimited → step s = .next t → t.PinsLimited

/-- R124, R125: ring sizes stay in 2..4,096 and indexes below them. -/
def Obligations.StepKeepsIndexesInRange : Prop := ∀ s t : State, s.IndexesInRange → step s = .next t → t.IndexesInRange

/-- R148, R173: while the engine is DISABLED every ring is UNUSED, and no fetched record is on its way to an arrival. -/
def Obligations.StepKeepsNoRingsWhileDisabled : Prop :=
  ∀ s t : State, s.NoRingsWhileDisabled → step s = .next t → t.NoRingsWhileDisabled

/-- Table 8.3: a command that is no reset moves the engine only along the table's rows; HALTED is left by a reset only. -/
def Obligations.EngineMovesByItsTable : Prop :=
  ∀ (c : Instr) (s t : State), isResetCommand c = false → exec c s = .next t →
    s.engine.state.mayBecome t.engine.state = true

/-! ### What commands leave unchanged -/

/-- R40, R45: the frame store changes only at a write commit and at a fill landing, and at power-on; and then no byte outside the
frame of the transfer's, or of the slot's, line. A piece that does not commit and a message that lands no fill leave it whole; that
returned data on a channel without a write-in is such a piece is the model's choice (notes/assumptions/2.md). -/
def Obligations.FramesChangeOnlyAtCommitAndLanding : Prop :=
  (∀ (c : Instr) (s t : State), exec c s = .next t →
    t.frames = s.frames ∨ (∃ i p d, c = .writeInData i p d) ∨ (∃ m, c = .response m) ∨ c = .powerOn) ∧
  (∀ (s t : State) (i : ChannelId) (p : Nat) (d : List Byte) (x : Transfer), s.writeInOn i = some x →
    exec (.writeInData i p d) s = .next t →
    ∀ a, a < x.line.frameBase ∨ x.line.frameBase + 4096 ≤ a → Memory.read t.frames a = Memory.read s.frames a) ∧
  (∀ (s t : State) (i : ChannelId) (p : Nat) (d : List Byte), exec (.writeInData i p d) s = .next t →
    (∀ x, s.writeInOn i = some x → x.takes p d = false ∨ x.error = true ∨ x.received + d.length ≠ 4096 ∨
      (s.line x.line).state = .invalid) → t.frames = s.frames) ∧
  (∀ (s t : State) (m : List Byte) (i : SlotId) (attempt block result : Nat) (data : Option (List Byte)) (x : MediaSlot),
    parseMessage m = .response i attempt block result data → s.slot i = some x → exec (.response m) s = .next t →
    ∀ a, a < x.line.frameBase ∨ x.line.frameBase + 4096 ≤ a → Memory.read t.frames a = Memory.read s.frames a) ∧
  ∀ (s t : State) (m : List Byte), exec (.response m) s = .next t →
    (∀ i attempt block result data x, parseMessage m = .response i attempt block result data → s.slot i = some x →
      x.state ≠ .awaiting ∨ x.attempt ≠ attempt ∨ x.block ≠ block ∨ x.orphan = true ∨ x.kind ≠ .fill ∨ data = none ∨
        result ≠ 0) → t.frames = s.frames

/-- R82, R83, R102: the link state and the capacity change only at an ANNOUNCE, a link loss and power-on. -/
def Obligations.LinkChangesOnlyAtAnnounceAndLoss : Prop :=
  ∀ (c : Instr) (s t : State), exec c s = .next t →
    (t.media.link = s.media.link ∧ t.media.capacity = s.media.capacity) ∨ (∃ m, c = .announce m) ∨ c = .linkLoss ∨
      c = .powerOn

/-- R172: the admin ring registers change only at power-on and at a register write taken while the engine is DISABLED. -/
def Obligations.AdminRegistersChangeOnlyWhileDisabled : Prop :=
  ∀ (c : Instr) (s t : State), exec c s = .next t →
    (t.host.adminSubmissionBase = s.host.adminSubmissionBase ∧
      t.host.adminCompletionBase = s.host.adminCompletionBase ∧ t.host.adminRingSizes = s.host.adminRingSizes) ∨
    c = .powerOn ∨
    ((∃ o z v, c = .registerWrite o z v) ∧ s.engine.state = .disabled ∧ s.host.linkUsable = true)

/-! ### Arrival, intake and posting -/

/-- R106, R107: a refused command posts the status of its first failing check with result 0, and nothing of it is executed. -/
def Obligations.RefusedCommandOnlyPosts : Prop :=
  (∀ (s : State) (k : CommandKind) (p : Bool) (a : Arrival), s.arrival = some a → commandOf a.sr a.record = some k →
    s.intakeStatus k a.ctx a.sr a.record ≠ .ok →
    exec (k.row p) s =
      .next ((s.takeArrival a).finish a.ctx (s.intakeStatus k a.ctx a.sr a.record) 0).settleHost) ∧
  (∀ (s : State) (a : Arrival), s.arrival = some a → commandOf a.sr a.record = none →
    exec .opcodeNamesNoCommand s = .next ((s.takeArrival a).finish a.ctx .invalidOpcode 0).settleHost) ∧
  ∀ (s : State) (a : Arrival),
    (s.takeArrival a).command a.ctx = some
      { state := .executing, sr := a.sr, reserved := a.reserved, record := a.record, created := 0, outstanding := 0,
        worst := .ok, failing := none, result := 0, aborting := false, notice := none } ∧
    (s.takeArrival a).rings.intake = a.rest ∧ (∀ d, d ≠ a.ctx → (s.takeArrival a).ctx d = s.ctx d) ∧
    s.SameCache (s.takeArrival a)

/-- Table 5.5: the checks from the second to the fifth, in order, each where those before it passed. -/
def Obligations.IntakeChecksInOrder : Prop :=
  ∀ (s : State) (k : CommandKind) (c : CtxId) (sr : RingId) (r : Record),
    (fieldsValid k r = false → s.intakeStatus k c sr r = .invalidField) ∧
    (fieldsValid k r = true →
      ((k.bopKind.isSome = true ∧ s.media.capacity < Rec.firstBlock r + Rec.blockCount r) →
        s.intakeStatus k c sr r = .outOfRange) ∧
      ((k.bopKind.isSome = true → Rec.firstBlock r + Rec.blockCount r ≤ s.media.capacity) →
        ((∃ d cmd, d ≠ c ∧ s.command d = some cmd ∧ cmd.sr = sr ∧ Rec.commandId cmd.record = Rec.commandId r) →
          s.intakeStatus k c sr r = .duplicateId) ∧
        ((∀ d cmd, d ≠ c → s.command d = some cmd → cmd.sr = sr → Rec.commandId cmd.record ≠ Rec.commandId r) →
          ((k = .flushAll ∧ 16 ≤ s.commands.flushAllQueue.length) ∨
              (k = .awaitNotice ∧ 4 ≤ s.commands.noticeRequests.length) → s.intakeStatus k c sr r = .busy) ∧
          ((k = .flushAll → s.commands.flushAllQueue.length < 16) →
            (k = .awaitNotice → s.commands.noticeRequests.length < 4) → s.intakeStatus k c sr r = .ok))))

/-- R25, R114, R115, R140: a command that ends goes to POSTING; its record is written at once to an idle ACTIVE completion ring, and waits
at the tail of the post queue while another is being written. A block operation that completes gives its status and offset to its
command, which posts with them when this was its last one, and goes to the head of the split queue. -/
def Obligations.CompletionIsPosted : Prop :=
  (∀ (s : State) (c : CtxId) (cmd : Command) (q : SubmissionRing) (r : CompletionRing) (st : Status) (v : Nat),
    s.command c = some cmd → s.sr cmd.sr = some q → s.cr q.boundCr = some r → r.state = .active →
    (r.postQueue = [] → r.writeInFlight = none →
      s.finish c st v =
        ((s.setCtx c (.holding { cmd with
            state := .posting, worst := st, failing := none, result := BitVec.ofNat 32 v, notice := none })).setCr q.boundCr
          (some { r with writeInFlight := some c })).hostWrite
          (.completion q.boundCr (r.base + 16 * r.tail)
            (completionRecord { cmd with
              state := .posting, worst := st, failing := none, result := BitVec.ofNat 32 v, notice := none }
              q.head r.phase))) ∧
    (∀ d, r.writeInFlight = some d →
      s.finish c st v =
        (s.setCtx c (.holding { cmd with
            state := .posting, worst := st, failing := none, result := BitVec.ofNat 32 v, notice := none })).setCr q.boundCr
          (some { r with postQueue := r.postQueue ++ [c] }))) ∧
  (∀ (s : State) (b : Bop) (st worst : Status) (failing : Option Nat) (cmd : Command), s.command b.ctx = some cmd →
    worst = (if cmd.worst.code < st.code then st else cmd.worst) →
    failing = (if cmd.worst.code < st.code then some b.offset
      else if cmd.worst = st ∧ st ≠ .ok then some (min (cmd.failing.getD b.offset) b.offset)
      else cmd.failing) →
    (¬(cmd.state = .running ∧ cmd.outstanding ≤ 1) →
      s.completeBop b st = (s.setCtx b.ctx (.holding { cmd with
        outstanding := cmd.outstanding - 1, worst := worst, failing := failing })).poolServes) ∧
    (∀ q r, cmd.state = .running → cmd.outstanding ≤ 1 → s.sr cmd.sr = some q → s.cr q.boundCr = some r →
      r.state = .active →
      (r.postQueue = [] → r.writeInFlight = none →
        s.completeBop b st =
          (((s.setCtx b.ctx (.holding { cmd with
              state := .posting, outstanding := 0, worst := worst, failing := failing })).setCr q.boundCr
            (some { r with writeInFlight := some b.ctx })).hostWrite
            (.completion q.boundCr (r.base + 16 * r.tail)
              (completionRecord { cmd with
                state := .posting, outstanding := 0, worst := worst, failing := failing } q.head r.phase))).poolServes) ∧
      (∀ d, r.writeInFlight = some d →
        s.completeBop b st =
          ((s.setCtx b.ctx (.holding { cmd with
              state := .posting, outstanding := 0, worst := worst, failing := failing })).setCr q.boundCr
            (some { r with postQueue := r.postQueue ++ [b.ctx] })).poolServes))) ∧
  ∀ s : State,
    (s.commands.splitQueue = [] → s.poolServes = s) ∧
    (∀ (c : CtxId) (rest : List CtxId) (cmd : Command) (k : CommandKind) (kind : BopKind),
      s.commands.splitQueue = c :: rest → s.command c = some cmd → commandOf cmd.sr cmd.record = some k →
      k.bopKind = some kind →
      (cmd.created + 1 < Rec.blockCount cmd.record →
        s.poolServes = { s with commands := { s.commands with
          contexts := s.commands.contexts.set c (.holding { cmd with
            created := cmd.created + 1, outstanding := cmd.outstanding + 1 }),
          awaitingLookup := s.commands.awaitingLookup ++ [
            { ctx := c, offset := cmd.created, block := Rec.firstBlock cmd.record + cmd.created, kind := kind,
              durable := kind == .write && Rec.durable cmd.record }] } }) ∧
      (Rec.blockCount cmd.record ≤ cmd.created + 1 →
        s.poolServes = { s with commands := { s.commands with
          contexts := s.commands.contexts.set c (.holding { cmd with
            state := .running, created := cmd.created + 1, outstanding := cmd.outstanding + 1 }),
          awaitingLookup := s.commands.awaitingLookup ++ [
            { ctx := c, offset := cmd.created, block := Rec.firstBlock cmd.record + cmd.created, kind := kind,
              durable := kind == .write && Rec.durable cmd.record }],
          splitQueue := rest } }))

/-- R143: a completion destined for a FAULTED completion ring is dropped: the context becomes FREE, the ring gives up the reservation if
there was one, no record is written, and a delete that waited for the context is judged. -/
def Obligations.CompletionIsDropped : Prop :=
  ∀ (s : State) (c : CtxId) (cmd : Command) (q : SubmissionRing) (r : CompletionRing) (st : Status) (v : Nat),
    s.command c = some cmd → s.sr cmd.sr = some q → s.cr q.boundCr = some r → r.state = .faulted →
    s.finish c st v =
      (if cmd.reserved then (s.setCtx c .free).setCr q.boundCr (some { r with reserved := r.reserved - 1 })
        else s.setCtx c .free).judgeDelete cmd.sr

/-- Tables 9.4, 9.7 to 9.12: where the fields of every record that is written, and of every message of the media link, stand. -/
def Obligations.CompletionRecordLayout : Prop :=
  (∀ (cmd : Command) (head : Nat) (phase : Bool), head < 4096 → (∀ k, cmd.failing = some k → k < 256) →
    (completionRecord cmd head phase).extractLsb' 0 16 = BitVec.ofNat 16 (Rec.commandId cmd.record) ∧
    (completionRecord cmd head phase).extractLsb' 16 16 = BitVec.ofNat 16 head ∧
    (completionRecord cmd head phase).extractLsb' 32 8 = BitVec.ofNat 8 cmd.sr.val ∧
    (completionRecord cmd head phase).extractLsb' 40 8 = BitVec.ofNat 8 cmd.worst.code ∧
    (completionRecord cmd head phase).extractLsb' 48 8 = BitVec.ofNat 8 (cmd.failing.getD 0) ∧
    (completionRecord cmd head phase).extractLsb' 56 8 = (if cmd.failing.isSome then 1 else 0) ∧
    (completionRecord cmd head phase).extractLsb' 64 32 = cmd.result ∧
    (completionRecord cmd head phase).extractLsb' 96 24 = 0 ∧
    (completionRecord cmd head phase).extractLsb' 120 8 = (if phase then 1 else 0)) ∧
  (∀ n : Notice, n.count < 65536 →
    (noticeRecord n).extractLsb' 0 16 = BitVec.ofNat 16 n.faultClass.val ∧
    (noticeRecord n).extractLsb' 16 16 = BitVec.ofNat 16 n.count ∧ (noticeRecord n).extractLsb' 32 32 = 0 ∧
    (n.first = none → (noticeRecord n).extractLsb' 64 448 = 0) ∧
    (∀ S w lost, n.first = some (.integrity S w lost) →
      (noticeRecord n).extractLsb' 64 448 = BitVec.ofNat 448 (S.val + 2 ^ 16 * w.val + 2 ^ 24 * bit lost)) ∧
    (∀ k m x, n.first = some (.ring k m x) →
      (noticeRecord n).extractLsb' 64 448 = BitVec.ofNat 448 ((match k with
        | .sr => 0
        | .cr => 1) + 2 ^ 8 * m.val + 2 ^ 16 * (match x with
        | .badIndex => 0
        | .fetchError => 1
        | .postError => 2))) ∧
    (∀ x m, n.first = some (.link x m) → m ≤ 32 →
      (noticeRecord n).extractLsb' 64 448 = BitVec.ofNat 448 ((match x with
        | .lost => 0
        | .reAnnounce => 1) + 2 ^ 8 * m)) ∧
    (∀ b k st, n.first = some (.media b k st) → b < 2 ^ 36 →
      (noticeRecord n).extractLsb' 64 448 = BitVec.ofNat 448 (b + 2 ^ 64 * (match k with
        | .fill => 0
        | .clean => 1) + 2 ^ 72 * st.code)) ∧
    (∀ a k m id, n.first = some (.hostBus a k m id) → a < 2 ^ 64 → id < 65536 →
      (noticeRecord n).extractLsb' 64 448 = BitVec.ofNat 448 (a + 2 ^ 64 * (match k with
        | .readOut => 0
        | .writeIn => 1
        | .notice => 2
        | .snapshot => 3
        | .geometry => 4) + 2 ^ 72 * m.val + 2 ^ 80 * id))) ∧
  (∀ s : State, s.MediaSound → s.CleanerSound →
    s.geometryRecord.extractLsb' 0 64 = BitVec.ofNat 64 s.media.capacity ∧
    s.geometryRecord.extractLsb' 64 8 = (if s.media.link = .up then 1 else 0) ∧
    s.geometryRecord.extractLsb' 72 280 = BitVec.ofNat 280 (8 + 2 ^ 8 * 4096 + 2 ^ 24 * 32768 + 2 ^ 56 * 4096 +
      2 ^ 88 * 128 + 2 ^ 104 * 8 + 2 ^ 120 * 1024 + 2 ^ 136 * 256 + 2 ^ 152 * 16 + 2 ^ 160 * 16 + 2 ^ 168 * 4096 +
      2 ^ 184 * 2 + 2 ^ 192 * 8 + 2 ^ 200 * 32 + 2 ^ 208 * 16 + 2 ^ 216 * 4 + 2 ^ 224 * 32 + 2 ^ 232 * 16 +
      2 ^ 240 * 4 + 2 ^ 248 * 255 + 2 ^ 256 * 6) ∧
    s.geometryRecord.extractLsb' 352 32 = BitVec.ofNat 32 s.writeBack.highMark ∧
    s.geometryRecord.extractLsb' 384 32 = BitVec.ofNat 32 s.writeBack.lowMark ∧
    s.geometryRecord.extractLsb' 416 32 = BitVec.ofNat 32 s.media.timeout ∧
    s.geometryRecord.extractLsb' 448 8 = BitVec.ofNat 8 s.media.retryLimit ∧
    s.geometryRecord.extractLsb' 456 56 = 0) ∧
  (∀ (cs : CacheSet) (S : SetId) (r : BitVec 2048), r = cs.snapshotRecord S →
    r.extractLsb' 0 16 = BitVec.ofNat 16 S.val ∧
    r.extractLsb' 16 8 = BitVec.ofNat 8 (bit cs.fence.failedWay.isSome + 2 * bit cs.fence.lost +
      4 * bit cs.fence.releasing.isSome + 8 * bit cs.fence.failedWay.isSome) ∧
    (cs.fence.failedWay = none → r.extractLsb' 24 8 = 0) ∧
    (∀ w, cs.fence.failedWay = some w → r.extractLsb' 24 8 = BitVec.ofNat 8 w.val) ∧
    r.extractLsb' 32 8 = BitVec.ofNat 8 cs.fence.salvaged ∧
    r.extractLsb' 40 8 = BitVec.ofNat 8 cs.fence.salvageFailures ∧
    r.extractLsb' 48 16 = BitVec.ofNat 16 cs.waitList.length ∧ r.extractLsb' 64 192 = 0 ∧
    ∀ (w : WayId) (o : Nat), o = 256 + 224 * w.val →
      r.extractLsb' o 8 = (match cs.ways[w].state with
        | .invalid => 0
        | .filling _ .media => 1
        | .filling _ .host => 2
        | .clean _ => 3
        | .dirty _ _ => 4
        | .cleaning _ _ => 5
        | .redirty _ _ _ => 6) ∧
      r.extractLsb' (o + 8) 8 = BitVec.ofNat 8 (bit cs.ways[w].state.block.isSome + 2 * bit cs.ways[w].exclusive +
        4 * bit cs.ways[w].cleanWanted + 8 * bit cs.ways[w].state.epoch.isSome +
        16 * bit (cs.ways[w].state.epoch == some .one)) ∧
      r.extractLsb' (o + 16) 8 = BitVec.ofNat 8 cs.ways[w].pins ∧
      r.extractLsb' (o + 24) 8 = BitVec.ofNat 8 (cs.recency.idxOf w) ∧
      r.extractLsb' (o + 32) 64 = BitVec.ofNat 64 (cs.ways[w].state.block.getD 0) ∧
      r.extractLsb' (o + 96) 16 = BitVec.ofNat 16 cs.ways[w].readers ∧
      r.extractLsb' (o + 112) 16 = BitVec.ofNat 16 cs.ways[w].accessQueue.length ∧
      r.extractLsb' (o + 128) 16 = BitVec.ofNat 16 cs.ways[w].watchers.length ∧
      r.extractLsb' (o + 144) 80 = 0) ∧
  (∀ (i : SlotId) (attempt block : Nat), attempt < 8 → block < 2 ^ 36 →
    requestHeader .fill i attempt block = BitVec.ofNat 128 (0x01 + 2 ^ 8 * (i.val + 2 ^ 5 * attempt) + 2 ^ 64 * block) ∧
    requestHeader .clean i attempt block = BitVec.ofNat 128 (0x02 + 2 ^ 8 * (i.val + 2 ^ 5 * attempt) + 2 ^ 64 * block)) ∧
  ∀ (i : SlotId) (attempt : Nat) (tag result present : Byte) (x2 x4 x5 x6 x7 : Byte) (number : BitVec 64)
      (block data : List Byte), attempt < 8 → tag.toNat = i.val + 32 * attempt → data.length = 4096 →
    block = (List.range 8).map (fun k => number.extractLsb' (8 * k) 8) →
    (present.toNat % 2 = 1 → parseMessage ([3, tag, result, present, x4, x5, x6, x7] ++ block ++ data) =
      .response i attempt number.toNat result.toNat (some data)) ∧
    (present.toNat % 2 = 0 → parseMessage ([3, tag, result, present, x4, x5, x6, x7] ++ block) =
      .response i attempt number.toNat result.toNat none) ∧
    (present.toNat % 2 = 0 → parseMessage ([3, tag, result, present, x4, x5, x6, x7] ++ block ++ data) = .discarded) ∧
    (present.toNat % 2 = 1 → parseMessage ([3, tag, result, present, x4, x5, x6, x7] ++ block) = .discarded) ∧
    parseMessage ([4, tag, x2, present, x4, x5, x6, x7] ++ block) = .announce number.toNat ∧
    parseMessage ([4, tag, x2, present, x4, x5, x6, x7] ++ block ++ data) = .discarded ∧
    ∀ (type : Byte) (rest : List Byte), type ≠ 3 → type ≠ 4 → parseMessage (type :: rest) = .discarded

/-! ### I/O commands -/

/-- R112, R114, R115, for READ, WRITE, FLUSH, DISCARD, PIN and UNPIN: with the split queue empty, a command whose block operations all
fit the pool creates them in ascending offset and is RUNNING; one that they do not fit takes what the pool has and is alone in the split
queue; with the split queue not empty it creates none and joins the tail. -/
def Obligations.RangeCommandSplits : Prop :=
  ∀ (s : State) (k : CommandKind) (b : BopKind) (p : Bool) (a : Arrival), s.Accepts k a → k.bopKind = some b →
    (s.commands.splitQueue = [] → Rec.blockCount a.record ≤ s.freeBops →
      ∃ u : State, exec (k.row p) s = .next u.settleHost ∧
        u.command a.ctx = some { arrivedCommand a.sr a.reserved a.record with
          state := .running, created := Rec.blockCount a.record, outstanding := Rec.blockCount a.record } ∧
        u.commands.awaitingLookup = s.commands.awaitingLookup ++ (List.range (Rec.blockCount a.record)).map (fun i =>
          ({ ctx := a.ctx, offset := i, block := Rec.firstBlock a.record + i, kind := b,
             durable := b == .write && Rec.durable a.record } : Bop)) ∧
        u.commands.splitQueue = [] ∧ (∀ d, d ≠ a.ctx → u.ctx d = s.ctx d) ∧ s.SameCache u ∧
        u.rings = { s.rings with intake := a.rest } ∧ u.host = s.host ∧ u.engine = s.engine ∧ u.faults = s.faults) ∧
    (s.commands.splitQueue = [] → s.freeBops < Rec.blockCount a.record →
      ∃ u : State, exec (k.row p) s = .next u.settleHost ∧
        u.command a.ctx = some { arrivedCommand a.sr a.reserved a.record with
          state := .splitting, created := s.freeBops, outstanding := s.freeBops } ∧
        u.commands.awaitingLookup = s.commands.awaitingLookup ++ (List.range s.freeBops).map (fun i =>
          ({ ctx := a.ctx, offset := i, block := Rec.firstBlock a.record + i, kind := b,
             durable := b == .write && Rec.durable a.record } : Bop)) ∧
        u.commands.splitQueue = [a.ctx] ∧ (∀ d, d ≠ a.ctx → u.ctx d = s.ctx d) ∧ s.SameCache u ∧
        u.rings = { s.rings with intake := a.rest } ∧ u.host = s.host ∧ u.engine = s.engine ∧ u.faults = s.faults) ∧
    (s.commands.splitQueue ≠ [] →
      ∃ u : State, exec (k.row p) s = .next u.settleHost ∧
        u.command a.ctx = some { arrivedCommand a.sr a.reserved a.record with state := .splitting } ∧
        u.commands.awaitingLookup = s.commands.awaitingLookup ∧
        u.commands.splitQueue = s.commands.splitQueue ++ [a.ctx] ∧ (∀ d, d ≠ a.ctx → u.ctx d = s.ctx d) ∧
        s.SameCache u ∧ u.rings = { s.rings with intake := a.rest } ∧ u.host = s.host ∧ u.engine = s.engine ∧
        u.faults = s.faults)

/-- R72 to R78: FLUSH ALL waits, EXECUTING, behind an active entry or a retag walk; into an empty queue it activates and turns the epoch
over; with nothing unclean it completes OK at once. The active one completes when the count of its old epoch is 0, with the worst status of
its failures, and the next is judged; cut short, it completes with the status of the cut, and the retag walk starts. -/
def Obligations.FlushAllArrives : Prop :=
  (∀ (s : State) (a : Arrival), s.Accepts .flushAll a →
    ((s.writeBack.activeFlushAll.isSome = true ∨ s.writeBack.walk.isSome = true) →
      ∃ u : State, exec .flushAll s = .next u.settle ∧ u.commands.flushAllQueue = s.commands.flushAllQueue ++ [a.ctx] ∧
        u.command a.ctx = some (arrivedCommand a.sr a.reserved a.record) ∧ (∀ d, d ≠ a.ctx → u.ctx d = s.ctx d) ∧
        s.SameCache u ∧ u.rings = { s.rings with intake := a.rest } ∧ u.host = s.host) ∧
    (s.commands.flushAllQueue = [] → s.writeBack.activeFlushAll = none → s.writeBack.walk = none →
      0 < s.unclean s.writeBack.currentEpoch →
      ∃ u : State, exec .flushAll s = .next u.settle ∧ u.commands.flushAllQueue = [a.ctx] ∧
        u.writeBack = { s.writeBack with
          currentEpoch := s.writeBack.currentEpoch.other,
          activeFlushAll := some { oldEpoch := s.writeBack.currentEpoch, failures := 0, worst := none } } ∧
        u.command a.ctx = some (arrivedCommand a.sr a.reserved a.record) ∧ (∀ d, d ≠ a.ctx → u.ctx d = s.ctx d) ∧
        u.directory = s.directory ∧ u.media = s.media ∧ u.frames = s.frames ∧
        u.rings = { s.rings with intake := a.rest } ∧ u.host = s.host) ∧
    (s.commands.flushAllQueue = [] → s.writeBack.activeFlushAll = none → s.writeBack.walk = none →
      s.unclean s.writeBack.currentEpoch = 0 →
      exec .flushAll s = .next (State.settle
        (State.finish { s.takeArrival a with
          writeBack := { s.writeBack with currentEpoch := s.writeBack.currentEpoch.other } } a.ctx .ok 0)))) ∧
  (∀ s : State,
    ((s.writeBack.activeFlushAll.isSome = true ∨ s.writeBack.walk.isSome = true ∨ s.commands.flushAllQueue = []) →
      s.judgeActivation = s) ∧
    (∀ (c : CtxId) (rest : List CtxId) (e : Epoch), s.writeBack.activeFlushAll = none → s.writeBack.walk = none →
      s.commands.flushAllQueue = c :: rest → e = s.writeBack.currentEpoch →
      (s.unclean e ≠ 0 → s.judgeActivation = { s with
        writeBack := { s.writeBack with
          currentEpoch := e.other, activeFlushAll := some { oldEpoch := e, failures := 0, worst := none } } }) ∧
      (s.unclean e = 0 → s.judgeActivation = (State.finish { s with
        writeBack := { s.writeBack with currentEpoch := e.other, activeFlushAll := none },
        commands := { s.commands with flushAllQueue := rest } } c .ok 0).judgeActivation))) ∧
  (∀ s : State, s.writeBack.activeFlushAll = none →
    s.judgeFlushAll = s ∧ ∀ st, s.flushAllFailure st = s ∧ s.cutFlushAll st = s) ∧
  ∀ (s : State) (f : FlushAllRecord), s.writeBack.activeFlushAll = some f →
    (s.unclean f.oldEpoch ≠ 0 → s.judgeFlushAll = s) ∧
    (∀ (c : CtxId) (rest : List CtxId), s.commands.flushAllQueue = c :: rest →
      (s.unclean f.oldEpoch = 0 →
        s.judgeFlushAll = (State.finish { s with
          writeBack := { s.writeBack with activeFlushAll := none },
          commands := { s.commands with flushAllQueue := rest } } c (f.worst.getD .ok) 0).judgeActivation) ∧
      ∀ st, s.cutFlushAll st =
        { State.finish { s with
            writeBack := { s.writeBack with activeFlushAll := none },
            commands := { s.commands with flushAllQueue := rest } } c st 0 with
          writeBack := { s.writeBack with
            activeFlushAll := none, walk := some { nextSet := 0, epoch := f.oldEpoch } } }) ∧
    ∀ st worst, worst = (match f.worst with
        | none => st
        | some w => if w.code < st.code then st else w) →
      s.flushAllFailure st = { s with writeBack := { s.writeBack with
        activeFlushAll := some { f with failures := f.failures + 1, worst := some worst } } }

/-! ### Rings -/

/-- R127: CREATE SUBMISSION RING is refused for ring 0, for a ring in use, and for a bound completion ring that is not ACTIVE; otherwise
the ring becomes ACTIVE and empty with the command's values. -/
def Obligations.SubmissionRingIsCreated : Prop :=
  ∀ (s : State) (a : Arrival) (n m : RingId), s.Accepts .createSr a →
    n = Rec.ringId (Rec.targetRing a.record) → m = Rec.ringId (Rec.boundCr a.record) →
    ((n = 0 ∨ s.sr n ≠ none ∨ ∀ r, s.cr m = some r → r.state ≠ .active) →
      exec .createSubmissionRing s = .next ((s.takeArrival a).finish a.ctx .stateConflict 0).settleHost) ∧
    (∀ r, n ≠ 0 → s.sr n = none → s.cr m = some r → r.state = .active →
      exec .createSubmissionRing s = .next (((s.takeArrival a).setSr n (some
        { state := .active, base := Rec.ringBase a.record, entries := Rec.ringEntries a.record, head := 0, tail := 0,
          boundCr := m, weight := Rec.weight a.record, fetchInFlight := false })).finish a.ctx .ok 0).settleHost)

/-- R128: CREATE COMPLETION RING is refused for ring 0 and for a ring in use; otherwise the ring becomes ACTIVE and empty, phase 1, with
the command's values. -/
def Obligations.CompletionRingIsCreated : Prop :=
  ∀ (s : State) (a : Arrival) (n : RingId), s.Accepts .createCr a → n = Rec.ringId (Rec.targetRing a.record) →
    ((n = 0 ∨ s.cr n ≠ none) →
      exec .createCompletionRing s = .next ((s.takeArrival a).finish a.ctx .stateConflict 0).settleHost) ∧
    (n ≠ 0 → s.cr n = none →
      exec .createCompletionRing s = .next (((s.takeArrival a).setCr n (some
        { state := .active, base := Rec.ringBase a.record, entries := Rec.ringEntries a.record, tail := 0, head := 0,
          phase := true, reserved := 0, postQueue := [], writeInFlight := none,
          vector := Rec.ringId (Rec.vector a.record), interruptsOn := Rec.interruptsOn a.record == 1,
          coalesceCount := Rec.createCoalesceCount a.record, coalesceTime := Rec.coalesceTime a.record,
          unsignalled := 0, timer := none })).finish a.ctx .ok 0).settleHost)

/-- R137, R138: a delete that takes effect counts the records waiting; it completes at once if nothing of the ring is in flight, and
otherwise its context stays EXECUTING. -/
def Obligations.SubmissionRingIsDeleted : Prop :=
  ∀ (s : State) (a : Arrival) (n : RingId), s.Accepts .deleteSr a → n = Rec.ringId (Rec.targetRing a.record) →
    ((n = 0 ∨ s.sr n = none ∨ ∃ q u d, s.sr n = some q ∧ q.state = .draining u d) →
      exec .deleteSubmissionRing s = .next ((s.takeArrival a).finish a.ctx .stateConflict 0).settleHost) ∧
    (∀ q, n ≠ 0 → s.sr n = some q → (q.state = .active ∨ q.state = .faulted) →
      ((q.fetchInFlight = true ∨ s.srInFlight n = true) →
        exec .deleteSubmissionRing s = .next (State.settleHost ((s.takeArrival a).setSr n (some { q with
          state := .draining ((q.tail + q.entries - q.head) % q.entries) a.ctx })))) ∧
      (q.fetchInFlight = false → s.srInFlight n = false →
        exec .deleteSubmissionRing s = .next (State.settleHost ((((s.takeArrival a).setSr n none).setOutcome a.ctx .ok
          ((q.tail + q.entries - q.head) % q.entries)).joinPost a.ctx))))

/-- R139: DELETE COMPLETION RING is refused for ring 0, for an UNUSED ring and for one that a submission ring is bound to; otherwise the
ring becomes UNUSED. -/
def Obligations.CompletionRingIsDeleted : Prop :=
  ∀ (s : State) (a : Arrival) (n : RingId), s.Accepts .deleteCr a → n = Rec.ringId (Rec.targetRing a.record) →
    ((n = 0 ∨ s.cr n = none ∨ ∃ m q, s.sr m = some q ∧ q.boundCr = n) →
      exec .deleteCompletionRing s = .next ((s.takeArrival a).finish a.ctx .stateConflict 0).settleHost) ∧
    (n ≠ 0 → s.cr n ≠ none → (∀ m q, s.sr m = some q → q.boundCr ≠ n) →
      exec .deleteCompletionRing s =
        .next (((s.takeArrival a).setCr n none).finish a.ctx .ok 0).settleHost)

/-- R147: the weight of a submission ring; the options of a completion ring, with the message that is due under them, and otherwise the
timer they leave. -/
def Obligations.RingOptionsAreSet : Prop :=
  ∀ (s : State) (a : Arrival) (p : Bool) (n : RingId), s.Accepts .setRingOptions a →
    n = Rec.ringId (Rec.targetRing a.record) →
    (Rec.ringKind a.record = 0 →
      ((n = 0 ∨ ∀ q, s.sr n = some q → q.state ≠ .active) →
        exec (.setRingOptions p) s = .next ((s.takeArrival a).finish a.ctx .stateConflict 0).settleHost) ∧
      (∀ q, n ≠ 0 → s.sr n = some q → q.state = .active →
        exec (.setRingOptions p) s = .next (((s.takeArrival a).setSr n (some
          { q with weight := Rec.weight a.record })).finish a.ctx .ok 0).settleHost)) ∧
    (Rec.ringKind a.record ≠ 0 →
      ((∀ r, s.cr n = some r → r.state ≠ .active) →
        exec (.setRingOptions p) s = .next ((s.takeArrival a).finish a.ctx .stateConflict 0).settleHost) ∧
      (∀ r : CompletionRing, s.cr n = some r → r.state = .active →
        ∀ (on : Bool) (count time unsignalled : Nat) (timer : Option Nat),
          on = (Rec.interruptsOn a.record == 1) → count = Rec.setCoalesceCount a.record →
          time = Rec.coalesceTime a.record → unsignalled = (if on = r.interruptsOn then r.unsignalled else 0) →
          timer = (if on = r.interruptsOn then r.timer else none) →
          ((on = true ∧ 1 ≤ unsignalled ∧ count ≤ unsignalled) →
            exec (.setRingOptions p) s = .next (State.settleHost (State.finish
              (((s.takeArrival a).setCr n (some { r with
                interruptsOn := on, coalesceCount := count, coalesceTime := time, unsignalled := 0,
                timer := none })).emit r.vector p) a.ctx .ok 0))) ∧
          (¬(on = true ∧ 1 ≤ unsignalled ∧ count ≤ unsignalled) →
            exec (.setRingOptions p) s = .next (State.settleHost (State.finish
              ((s.takeArrival a).setCr n (some { r with
                interruptsOn := on, coalesceCount := count, coalesceTime := time, unsignalled := unsignalled,
                timer :=
                  if timer.isSome then (if time = 0 then none else timer)
                  else if on = true ∧ 1 ≤ unsignalled ∧ 0 < time then some time
                  else none })) a.ctx .ok 0)))))

/-! ### Parameters -/

/-- R57: marks that do not satisfy 0 ≤ L < H ≤ 32,768 are refused with INVALID_FIELD and change nothing; an accepted SET CLEANER replaces
the marks and judges the pressure flag against the dirty count. -/
def Obligations.CleanerMarksAreSet : Prop :=
  (∀ (s : State) (a : Arrival), s.arrival = some a → commandOf a.sr a.record = some .setCleaner →
    ¬(Rec.lowMark a.record < Rec.highMark a.record ∧ Rec.highMark a.record ≤ 32768) →
    exec .setCleaner s = .next ((s.takeArrival a).finish a.ctx .invalidField 0).settleHost) ∧
  ∀ (s : State) (a : Arrival), s.Accepts .setCleaner a →
    exec .setCleaner s = .next (State.settle (State.finish { s.takeArrival a with
      writeBack := { s.writeBack with
        highMark := Rec.highMark a.record, lowMark := Rec.lowMark a.record,
        pressure :=
          if Rec.highMark a.record ≤ s.dirtyCount then true
          else if s.dirtyCount ≤ Rec.lowMark a.record then false
          else s.writeBack.pressure } } a.ctx .ok 0))

/-- R101: values out of range are refused and change nothing; an accepted SET MEDIA PARAMS replaces both parameters, and slots in use keep
what they took. -/
def Obligations.MediaParametersAreSet : Prop :=
  (∀ (s : State) (a : Arrival), s.arrival = some a → commandOf a.sr a.record = some .setMediaParams →
    ¬(1 ≤ Rec.mediaTimeout a.record ∧ Rec.mediaTimeout a.record ≤ 10000 ∧ Rec.retryLimit a.record ≤ 7) →
    exec .setMediaParams s = .next ((s.takeArrival a).finish a.ctx .invalidField 0).settleHost) ∧
  ∀ (s : State) (a : Arrival), s.Accepts .setMediaParams a →
    exec .setMediaParams s = .next (State.settleHost (State.finish { s.takeArrival a with
      media := { s.media with
        timeout := Rec.mediaTimeout a.record, retryLimit := Rec.retryLimit a.record } } a.ctx .ok 0))

/-! ### Other admin commands -/

/-- R118, R164: the record is taken as things stand, its write is issued to the buffer address, and the context is EXECUTING; no set
changes. -/
def Obligations.GeometryAndSnapshotAreTaken : Prop :=
  (∀ (s : State) (a : Arrival), s.Accepts .reportGeometry a →
    exec .reportGeometry s = .next ((s.takeArrival a).hostWrite
      (.geometry (Rec.bufferAddress a.record) s.geometryRecord)).settleHost) ∧
  ∀ (s : State) (a : Arrival), s.Accepts .readSet a →
    exec .readSet s = .next ((s.takeArrival a).hostWrite (.snapshot (Rec.bufferAddress a.record)
      ((s.cacheSet (Fin.ofNat 4096 (Rec.setNumber a.record))).snapshotRecord
        (Fin.ofNat 4096 (Rec.setNumber a.record))))).settleHost

/-- R150, R152, R153: a report counts up to 65,535 in its class, keeps the first record and leaves the class unreported. With no class
unreported AWAIT NOTICE joins the list; otherwise it is delivered the lowest unreported class, whose entry is cleared. At the end of an event
the requests of the list are delivered in order while a class is unreported. -/
def Obligations.NoticeIsAwaited : Prop :=
  (∀ (s : State) (a : Arrival), s.Accepts .awaitNotice a →
    ((∀ k : Fin 5, s.faults.entries[k].unreported = false) →
      exec .awaitNotice s = .next (State.settleHost { s.takeArrival a with
        commands := { (s.takeArrival a).commands with
          noticeRequests := s.commands.noticeRequests ++ [a.ctx] } })) ∧
    (∀ k : Fin 5, s.faults.entries[k].unreported = true → (∀ j : Fin 5, j < k → s.faults.entries[j].unreported = false) →
      exec .awaitNotice s = .next (State.settleHost
        ((({ (s.takeArrival a).setEntry k { count := 0, first := none, unreported := false } with
              commands := { (s.takeArrival a).commands with
                noticeRequests := s.commands.noticeRequests.filter (· != a.ctx) } } : State).setCtx a.ctx (.holding
            { arrivedCommand a.sr a.reserved a.record with
              notice := some { faultClass := k, count := s.faults.entries[k].count,
                               first := s.faults.entries[k].first } })).hostWrite
          (.notice (Rec.bufferAddress a.record) (noticeRecord
            { faultClass := k, count := s.faults.entries[k].count, first := s.faults.entries[k].first })))))) ∧
  (∀ (s : State) (r : FaultRecord) (k : Fin 5) (e : CaptureEntry),
    k = (match r with
      | .integrity _ _ _ => 0
      | .ring _ _ _ => 1
      | .link _ _ => 2
      | .media _ _ _ => 3
      | .hostBus _ _ _ _ => 4) →
    e = { count := min (s.faults.entries[k].count + 1) 65535, first := some (s.faults.entries[k].first.getD r),
          unreported := true } →
    s.reportFault r = { s with faults := { s.faults with entries := s.faults.entries.set k e } }) ∧
  ∀ s : State,
    ((s.commands.noticeRequests = [] ∨ ∀ k : Fin 5, s.faults.entries[k].unreported = false) → s.deliverNotices = s) ∧
    ∀ (c : CtxId) (cs : List CtxId) (cmd : Command) (k : Fin 5) (n : Notice), s.commands.noticeRequests = c :: cs → c ∉ cs →
      s.command c = some cmd → s.faults.entries[k].unreported = true →
      (∀ j : Fin 5, j < k → s.faults.entries[j].unreported = false) →
      n = { faultClass := k, count := s.faults.entries[k].count, first := s.faults.entries[k].first } →
      s.deliverNotices = State.deliverNotices
        ((({ s.setEntry k { count := 0, first := none, unreported := false } with
            commands := { s.commands with noticeRequests := cs } } : State).setCtx c (.holding
          { cmd with state := .executing, notice := some n })).hostWrite
            (.notice (Rec.bufferAddress cmd.record) (noticeRecord n)))

/-- R162, R163: UNFENCE SET is refused unless the set is fenced and not releasing; otherwise the set is releasing for this context. A
releasing set that is empty of work is reinitialised, and its command posts the fence counts; one that is not stays as it is. -/
def Obligations.FencedSetIsReleased : Prop :=
  (∀ (s : State) (a : Arrival) (S : SetId), s.Accepts .unfenceSet a → S = Fin.ofNat 4096 (Rec.setNumber a.record) →
    (((s.cacheSet S).fence.failedWay = none ∨ (s.cacheSet S).fence.releasing ≠ none) →
      exec .unfenceSet s = .next ((s.takeArrival a).finish a.ctx .stateConflict 0).settle) ∧
    ((s.cacheSet S).fence.failedWay ≠ none → (s.cacheSet S).fence.releasing = none →
      exec .unfenceSet s =
        .next ((s.takeArrival a).setFence S { (s.cacheSet S).fence with releasing := some a.ctx }).settle)) ∧
  ∀ (s : State) (S : SetId) (c : CtxId), (s.cacheSet S).fence.releasing = some c →
    (s.emptyOfWork S = true →
      s.judgeUnfenceSet S = (s.setCacheSet S
        { ways := Vector.replicate 8
            { state := .invalid, checkBad := false, pins := 0, readers := 0, exclusive := false, accessQueue := [],
              watchers := [], cleanWanted := false },
          recency := [0, 1, 2, 3, 4, 5, 6, 7], waitList := [],
          fence := { failedWay := none, lost := false, salvaged := 0, salvageFailures := 0, releasing := none } }).finish
          c .ok ((s.cacheSet S).fence.salvaged + 256 * (s.cacheSet S).fence.salvageFailures +
            65536 * (if (s.cacheSet S).fence.lost then 1 else 0))) ∧
    (s.emptyOfWork S = false → s.judgeUnfenceSet S = s)

/-- R119 to R121, with R77: ABORT seeks a context of the ring and id that is not POSTING, on ring 0 only an AWAIT NOTICE that still waits.
Without one it completes OK with result 0 and does nothing else; with one it acts on it and completes OK with result 1. Where several match,
which intake rules out, the lowest is taken. A target marked before is not changed. An AWAIT NOTICE leaves its list, a FLUSH ALL its queue,
and each posts ABORTED; the active FLUSH ALL is cut short. Of a range command the offsets not created, the block operations awaiting lookup,
those in access queues, wait lists and watch lists are taken out with ABORTED, in this order. That the relookup passes come at the end, after
ABORT's own completion, is the model's reading (notes/assumptions/14.md). -/
def Obligations.AbortActsOnItsTarget : Prop :=
  (∀ (s : State) (a : Arrival) (n : RingId) (id : Nat), s.Accepts .abort a → n = Rec.ringId (Rec.targetRing a.record) →
    id = Rec.targetCommandId a.record →
    ((∀ t cmd, ¬s.AbortSeeks n id t cmd) →
      exec .abort s = .next ((s.takeArrival a).finish a.ctx .ok 0).settle) ∧
    (∀ (t : CtxId) (cmd : Command) (u : State), s.AbortSeeks n id t cmd → (∀ d x, d < t → ¬s.AbortSeeks n id d x) →
      u = (s.takeArrival a).setCtx t (.holding { cmd with aborting := true }) →
      (cmd.aborting = true → exec .abort s = .next ((s.takeArrival a).finish a.ctx .ok 1).settle) ∧
      (cmd.aborting = false → n = 0 →
        exec .abort s = .next (State.settle (State.finish (State.finish
          { u with commands := { u.commands with
              noticeRequests := s.commands.noticeRequests.filter (· != t) } } t .aborted 0) a.ctx .ok 1))) ∧
      (cmd.aborting = false → commandOf cmd.sr cmd.record = some .flushAll →
        (∀ f rest, s.writeBack.activeFlushAll = some f → s.commands.flushAllQueue = t :: rest →
          exec .abort s = .next (State.settle (State.finish
            { State.finish { u with
                writeBack := { s.writeBack with activeFlushAll := none },
                commands := { u.commands with flushAllQueue := rest } } t .aborted 0 with
              writeBack := { s.writeBack with
                activeFlushAll := none, walk := some { nextSet := 0, epoch := f.oldEpoch } } } a.ctx .ok 1))) ∧
        ((s.writeBack.activeFlushAll.isSome = true ∧ s.commands.flushAllQueue.head? ≠ some t ∨
            s.writeBack.activeFlushAll = none ∧ s.writeBack.walk.isSome = true) →
          exec .abort s = .next (State.settle (State.finish (State.finish
            { u with commands := { u.commands with
                flushAllQueue := s.commands.flushAllQueue.filter (· != t) } } t .aborted 0) a.ctx .ok 1))) ∧
        (s.writeBack.activeFlushAll = none →
          exec .abort s = .next (State.settle (State.finish (State.judgeActivation (State.finish
            { u with commands := { u.commands with
                flushAllQueue := s.commands.flushAllQueue.filter (· != t) } } t .aborted 0)) a.ctx .ok 1)))) ∧
      (cmd.aborting = false → ∀ k b, commandOf cmd.sr cmd.record = some k → k.bopKind = some b →
        exec .abort s = .next (((u.abortRange t cmd).1.finish a.ctx .ok 1).settleSets (u.abortRange t cmd).2)))) ∧
  (∀ (s : State) (t : CtxId) (cmd : Command) (sets : List SetId) (r : State × List SetId),
    sets = (List.range (Rec.blockCount cmd.record)).map (fun k => Fin.ofNat 4096 (Rec.firstBlock cmd.record + k)) →
    r = abortQueuedSets t sets ((s.abortUnsplit t).abortAwaiting t, []) →
    s.abortRange t cmd = (sets.foldl (fun s S =>
        (List.finRange 8).foldl (fun s w => s.abortWatching t ⟨S, w⟩) s)
      (sets.foldl (fun s S => s.abortWaiting t S) r.1), r.2)) ∧
  (∀ (s : State) (t : CtxId) (cmd : Command) (worst : Status) (failing : Option Nat), s.command t = some cmd →
    worst = (if cmd.worst.code < Status.aborted.code then .aborted else cmd.worst) →
    failing = (if cmd.worst.code < Status.aborted.code then some cmd.created
      else if cmd.worst = .aborted then some (min (cmd.failing.getD cmd.created) cmd.created) else cmd.failing) →
    (cmd.state ≠ .splitting → s.abortUnsplit t = s) ∧
    (cmd.state = .splitting → 0 < cmd.outstanding →
      s.abortUnsplit t = { s with commands := { s.commands with
        contexts := s.commands.contexts.set t (.holding { cmd with
          state := .running, worst := worst, failing := failing }),
        splitQueue := s.commands.splitQueue.filter (· != t) } }) ∧
    (cmd.state = .splitting → cmd.outstanding = 0 →
      s.abortUnsplit t = State.toPosting { s with commands := { s.commands with
        contexts := s.commands.contexts.set t (.holding { cmd with worst := worst, failing := failing }),
        splitQueue := s.commands.splitQueue.filter (· != t) } } t)) ∧
  (∀ (s : State) (t : CtxId) (q : List Bop), q = s.commands.awaitingLookup →
    s.abortAwaiting t = completeAll .aborted (q.filter (·.ctx == t))
      { s with commands := { s.commands with awaitingLookup := q.filter (·.ctx != t) } }) ∧
  (∀ (s : State) (t : CtxId) (l : LineId) (q : List Bop) (u : State), q = (s.line l).accessQueue →
    u = completeAll .aborted (q.filter (·.ctx == t)) (s.setAccessQueue l (q.filter (·.ctx != t))) →
    ((∀ b ∈ q, b.ctx ≠ t) → s.abortQueued t l = (s, false)) ∧
    ((∃ b ∈ q, b.ctx = t) →
      s.abortQueued t l = ((u.serve l).1, (q.filter (·.ctx != t)).isEmpty || (u.serve l).2))) ∧
  (∀ (s : State) (t : CtxId) (S : SetId) (q : List Bop), q = (s.cacheSet S).waitList →
    ((∀ b ∈ q, b.ctx ≠ t) → s.abortWaiting t S = s) ∧
    ((∃ b ∈ q, b.ctx = t) →
      s.abortWaiting t S = completeAll .aborted (q.filter (·.ctx == t)) (s.setWaitList S (q.filter (·.ctx != t))))) ∧
  (∀ (s : State) (t : CtxId) (l : LineId) (q : List Watcher), q = (s.line l).watchers →
    ((∀ w ∈ q, w.bop.ctx ≠ t) → s.abortWatching t l = s) ∧
    ((∃ w ∈ q, w.bop.ctx = t) →
      s.abortWatching t l = completeAll .aborted ((q.filter (·.bop.ctx == t)).map (·.bop))
        (s.setWatchers l (q.filter (·.bop.ctx != t))))) ∧
  (∀ (t : CtxId) (S : SetId) (Ss : List SetId) (w : WayId) (ws : List WayId) (r : State × Bool) (k : State × List SetId),
    abortQueuedWays t S [] r = r ∧
    abortQueuedWays t S (w :: ws) r =
      abortQueuedWays t S ws ((r.1.abortQueued t ⟨S, w⟩).1, r.2 || (r.1.abortQueued t ⟨S, w⟩).2) ∧
    abortQueuedSets t [] k = k ∧
    (∀ x, x = abortQueuedWays t S (List.finRange 8) (k.1, false) →
      abortQueuedSets t (S :: Ss) k = abortQueuedSets t Ss (x.1, if x.2 then k.2 ++ [S] else k.2))) ∧
  ∀ (s : State) (S : SetId) (Ss : List SetId), passAll [] s = s ∧ passAll (S :: Ss) s = passAll Ss (s.pass S)

/-! ### Engine Control and the register window -/

/-- R126, R174: ENABLE while DISABLED creates the admin pair and enters RUNNING if the admin ring registers are valid, and sets the enable
refused flag otherwise. -/
def Obligations.EnableIsJudged : Prop :=
  ∀ (s : State) (q f : Bool) (srEntries crEntries : Nat), s.host.linkUsable = true → s.engine.state = .disabled →
    srEntries = s.host.adminRingSizes.toNat % 65536 → crEntries = s.host.adminRingSizes.toNat / 65536 →
    ((8 ≤ srEntries ∧ srEntries ≤ 4096 ∧ 8 ≤ crEntries ∧ crEntries ≤ 4096 ∧
        s.host.adminSubmissionBase.toNat % 64 = 0 ∧ s.host.adminCompletionBase.toNat % 64 = 0 ∧
        s.host.adminSubmissionBase.toNat + 64 * srEntries ≤ 2 ^ 64 ∧
        s.host.adminCompletionBase.toNat + 16 * crEntries ≤ 2 ^ 64) →
      exec (.enable q f) s = .next (State.fetchArbiter { (s.setSr 0 (some
          { state := .active, base := s.host.adminSubmissionBase.toNat, entries := srEntries, head := 0, tail := 0,
            boundCr := 0, weight := 1, fetchInFlight := false })).setCr 0 (some
          { state := .active, base := s.host.adminCompletionBase.toNat, entries := crEntries, tail := 0, head := 0,
            phase := true, reserved := 0, postQueue := [], writeInFlight := none, vector := 0, interruptsOn := true,
            coalesceCount := 1, coalesceTime := 0, unsignalled := 0, timer := none }) with
        engine := { s.engine with state := .running, flushOnQuiesce := f, enableRefused := false } })) ∧
    (¬(8 ≤ srEntries ∧ srEntries ≤ 4096 ∧ 8 ≤ crEntries ∧ crEntries ≤ 4096 ∧
        s.host.adminSubmissionBase.toNat % 64 = 0 ∧ s.host.adminCompletionBase.toNat % 64 = 0 ∧
        s.host.adminSubmissionBase.toNat + 64 * srEntries ≤ 2 ^ 64 ∧
        s.host.adminCompletionBase.toNat + 16 * crEntries ≤ 2 ^ 64) →
      exec (.enable q f) s =
        .next { s with engine := { s.engine with flushOnQuiesce := f, enableRefused := true } })

/-- R170, R175, R176: the four rows that write ENGINE CONTROL without SOFT_RESET are one write of its three other fields, and the write
acts by the engine state. The return to RUNNING is `QuiesceClearedReturnsToRunning`. A QUIESCING engine becomes QUIESCED when every context is
FREE or holds an AWAIT NOTICE and, with the flush option, nothing is unclean or the link is DOWN; the residue flag then says whether unclean
data was left. That the condition is judged after the notices are delivered, and how a context is known to hold an AWAIT NOTICE, are the
model's readings (notes/assumptions/11.md, 16.md). -/
def Obligations.ControlWriteActsByState : Prop :=
  (∀ (s : State) (e q f : Bool), s.host.linkUsable = true →
    (e = true → exec (.enable q f) s = exec (.flushOnQuiesce f e q) s) ∧
    (q = true → exec (.quiesce e f) s = exec (.flushOnQuiesce f e q) s) ∧
    (q = false → exec (.quiesceCleared e f) s = exec (.flushOnQuiesce f e q) s) ∧
    (s.engine.state = .disabled → e = false →
      exec (.flushOnQuiesce f e q) s = .next { s with engine := { s.engine with flushOnQuiesce := f } }) ∧
    (s.engine.state = .running → q = true →
      exec (.flushOnQuiesce f e q) s =
        .next (State.settle { s with engine := { s.engine with state := .quiescing, flushOnQuiesce := f } })) ∧
    (s.engine.state = .running → q = false →
      exec (.flushOnQuiesce f e q) s = .next { s with engine := { s.engine with flushOnQuiesce := f } }) ∧
    (s.engine.state = .quiescing → q = true →
      exec (.flushOnQuiesce f e q) s =
        .next (State.settle { s with engine := { s.engine with flushOnQuiesce := f } })) ∧
    (s.engine.state = .quiesced → q = true →
      exec (.flushOnQuiesce f e q) s = .next { s with engine := { s.engine with flushOnQuiesce := f } }) ∧
    (s.engine.state = .halted →
      exec (.flushOnQuiesce f e q) s = .next { s with engine := { s.engine with flushOnQuiesce := f } })) ∧
  (∀ s : State, s.settleHost = s.deliverNotices.judgeQuiesce.fetchArbiter) ∧
  ∀ s : State,
    (s.engine.state ≠ .quiescing → s.judgeQuiesce = s) ∧
    (s.engine.state = .quiescing →
      (((∀ c : CtxId, s.ctx c = .free ∨
            ∃ cmd, s.ctx c = .holding cmd ∧ commandOf cmd.sr cmd.record = some .awaitNotice) ∧
          (s.engine.flushOnQuiesce = true →
            s.writeBack.unclean0 + s.writeBack.unclean1 = 0 ∨ s.media.link = .down)) →
        s.judgeQuiesce = { s with engine := { s.engine with
          state := .quiesced,
          quiesceResidue := s.engine.flushOnQuiesce && decide (s.media.link = .down) &&
            decide (0 < s.writeBack.unclean0 + s.writeBack.unclean1) } }) ∧
      (¬((∀ c : CtxId, s.ctx c = .free ∨
            ∃ cmd, s.ctx c = .holding cmd ∧ commandOf cmd.sr cmd.record = some .awaitNotice) ∧
          (s.engine.flushOnQuiesce = true →
            s.writeBack.unclean0 + s.writeBack.unclean1 = 0 ∨ s.media.link = .down)) →
        s.judgeQuiesce = s))

/-- R177: QUIESCE written as 0 returns a QUIESCING or QUIESCED engine to RUNNING; the residue flag is cleared, and flush mode then holds
only while a flush-all is active. -/
def Obligations.QuiesceClearedReturnsToRunning : Prop :=
  ∀ (s : State) (e f : Bool), s.host.linkUsable = true → (s.engine.state = .quiescing ∨ s.engine.state = .quiesced) →
    exec (.quiesceCleared e f) s = .next (State.fetchArbiter { s with
      engine := { s.engine with state := .running, flushOnQuiesce := f, quiesceResidue := false } }) ∧
    (State.flushMode { s with
      engine := { s.engine with state := .running, flushOnQuiesce := f, quiesceResidue := false } } =
        s.writeBack.activeFlushAll.isSome)

/-- R129: a tail write is ignored, accepted, or faults the ring; a read returns the tail, or 0 while UNUSED. -/
def Obligations.TailWriteActsByState : Prop :=
  ∀ (s : State) (n : RingId) (v : BitVec 32), s.host.linkUsable = true →
    (s.sr n = none → exec (.srTailWrite n v) s = .next s ∧ s.readRegister (0x100 + 4 * n.val) 4 = 0) ∧
    (∀ q, s.sr n = some q →
      s.readRegister (0x100 + 4 * n.val) 4 = q.tail ∧
      (q.state ≠ .active → exec (.srTailWrite n v) s = .next s) ∧
      (q.state = .active → v.toNat < q.entries →
        exec (.srTailWrite n v) s = .next (s.setSr n (some { q with tail := v.toNat })).fetchArbiter) ∧
      (q.state = .active → q.entries ≤ v.toNat →
        exec (.srTailWrite n v) s = .next (s.faultSr n .badIndex).settleHost ∧
        (s.faultSr n .badIndex).sr n = some { q with state := .faulted }))

/-- R130: a head write is ignored, accepted within the span from the head to the tail, or faults the ring; a read returns the head, or 0
while UNUSED. Sections 6.8, 6.9 and 8.3 on the fault: a completion ring becomes FAULTED with its post queue dropped in order, its unsignalled count 0
and its timer stopped, and keeps its indexes and phase; an ACTIVE submission ring becomes FAULTED; a RING fault is reported; a fault of ring 0
halts an engine that is RUNNING, QUIESCING or QUIESCED. -/
def Obligations.HeadWriteActsByState : Prop :=
  (∀ (s : State) (n : RingId) (v : BitVec 32), s.host.linkUsable = true →
    (s.cr n = none → exec (.crHeadWrite n v) s = .next s ∧ s.readRegister (0x180 + 4 * n.val) 4 = 0) ∧
    (∀ r, s.cr n = some r →
      s.readRegister (0x180 + 4 * n.val) 4 = r.head ∧
      (r.state = .faulted → exec (.crHeadWrite n v) s = .next s) ∧
      (r.state = .active →
        ((v.toNat < r.entries ∧
            (v.toNat + r.entries - r.head) % r.entries ≤ (r.tail + r.entries - r.head) % r.entries) →
          exec (.crHeadWrite n v) s = .next (s.setCr n (some { r with head := v.toNat })).fetchArbiter) ∧
        (¬(v.toNat < r.entries ∧
            (v.toNat + r.entries - r.head) % r.entries ≤ (r.tail + r.entries - r.head) % r.entries) →
          exec (.crHeadWrite n v) s = .next (s.faultCr n .badIndex).settleHost)))) ∧
  (∀ (s t : State) (n : RingId) (r : CompletionRing) (reason : RingFaultReason), s.cr n = some r →
    t = s.faultCr n reason →
    t = ((dropAll n r.postQueue (s.setCr n (some { r with
      state := .faulted, postQueue := [], unsignalled := 0, timer := none }))).reportFault (.ring .cr n reason)).claim n ∧
    (∃ k, k ≤ r.reserved ∧ t.cr n = some { r with
      state := .faulted, reserved := k, postQueue := [], unsignalled := 0, timer := none }) ∧
    (∀ c ∈ r.postQueue, (s.command c).isSome = true → t.ctx c = .free) ∧
    t.faults = (s.reportFault (.ring .cr n reason)).faults ∧ s.SameCache t ∧
    t.engine = (if n = 0 ∧ s.engine.state ≠ .disabled ∧ s.engine.state ≠ .halted then
        { s.engine with state := .halted, quiesceAtHalt := s.engine.state != .running }
      else s.engine)) ∧
  (∀ (s : State) (n : RingId) (x : CompletionRing) (c : CtxId) (cs : List CtxId) (cmd : Command), s.cr n = some x →
    s.command c = some cmd →
    dropAll n [] s = s ∧
    dropAll n (c :: cs) s = dropAll n cs ((if cmd.reserved then
        (s.setCtx c .free).setCr n (some { x with reserved := x.reserved - 1 })
      else s.setCtx c .free).judgeDelete cmd.sr)) ∧
  ∀ (s t : State) (n : RingId) (q : SubmissionRing) (reason : RingFaultReason), s.sr n = some q →
    t = s.faultSr n reason →
    t.sr n = some { q with state := if q.state = .active then .faulted else q.state } ∧
    (∀ m, m ≠ n → t.sr m = s.sr m) ∧ t.rings.crs = s.rings.crs ∧ t.commands = s.commands ∧
    t.faults = (s.reportFault (.ring .sr n reason)).faults ∧ s.SameCache t ∧
    t.engine = (if n = 0 ∧ s.engine.state ≠ .disabled ∧ s.engine.state ≠ .halted then
        { s.engine with state := .halted, quiesceAtHalt := s.engine.state != .running }
      else s.engine)

/-- R169, R172, R185: what a write of the register window does at each offset, and, with R156, R170 and R171, what a read returns. An 8-byte
access elsewhere than at a base register is two accesses of 4 bytes, the lower first. That both of its writes are one command, and both of
its read words are taken from one state, is the model's choice (notes/assumptions/15.md, 19.md). -/
def Obligations.RegisterWriteIsRouted : Prop :=
  (∀ (s : State) (value : BitVec 64), s.host.linkUsable = true →
    (s.engine.state = .disabled →
      exec (.registerWrite 0x020 8 value) s = .next { s with host := { s.host with adminSubmissionBase := value } } ∧
      exec (.registerWrite 0x028 8 value) s = .next { s with host := { s.host with adminCompletionBase := value } } ∧
      exec (.registerWrite 0x020 4 value) s = .next { s with host := { s.host with
        adminSubmissionBase := s.host.adminSubmissionBase.extractLsb' 32 32 ++ value.extractLsb' 0 32 } } ∧
      exec (.registerWrite 0x024 4 value) s = .next { s with host := { s.host with
        adminSubmissionBase := value.extractLsb' 0 32 ++ s.host.adminSubmissionBase.extractLsb' 0 32 } } ∧
      exec (.registerWrite 0x028 4 value) s = .next { s with host := { s.host with
        adminCompletionBase := s.host.adminCompletionBase.extractLsb' 32 32 ++ value.extractLsb' 0 32 } } ∧
      exec (.registerWrite 0x02C 4 value) s = .next { s with host := { s.host with
        adminCompletionBase := value.extractLsb' 0 32 ++ s.host.adminCompletionBase.extractLsb' 0 32 } } ∧
      exec (.registerWrite 0x030 4 value) s = .next { s with host := { s.host with
        adminRingSizes := value.extractLsb' 0 32 } }) ∧
    (s.engine.state ≠ .disabled → ∀ offset size, 0x020 ≤ offset → offset < 0x034 →
      exec (.registerWrite offset size value) s = .next s) ∧
    (∀ offset size, ¬((size = 4 ∨ size = 8) ∧ offset % size = 0) → exec (.registerWrite offset size value) s = .next s) ∧
    (∀ offset size, 0x004 ≤ offset → offset < 0x020 → exec (.registerWrite offset size value) s = .next s) ∧
    (∀ n : RingId, exec (.registerWrite (0x100 + 4 * n.val) 4 value) s =
      exec (.srTailWrite n (value.extractLsb' 0 32)) s) ∧
    (∀ n : RingId, exec (.registerWrite (0x180 + 4 * n.val) 4 value) s =
      exec (.crHeadWrite n (value.extractLsb' 0 32)) s) ∧
    exec (.registerWrite 0x000 4 value) s =
      (if value[3] then exec (.softReset value[0] value[1] value[2]) s
        else exec (.flushOnQuiesce value[2] value[0] value[1]) s) ∧
    (∀ offset size, ((0x034 ≤ offset ∧ offset < 0x100) ∨ (0x140 ≤ offset ∧ offset < 0x180) ∨ 0x1C0 ≤ offset) →
      exec (.registerWrite offset size value) s = .next s) ∧
    ∀ offset, offset % 8 = 0 → offset ≠ 0x020 → offset ≠ 0x028 →
      ∃ t, exec (.registerWrite offset 4 (value &&& 0xFFFFFFFF)) s = .next t ∧
        exec (.registerWrite offset 8 value) s = exec (.registerWrite (offset + 4) 4 (value >>> 32)) t) ∧
  ∀ s : State,
    s.readRegister 0x000 4 = bit (s.engine.state != .disabled) +
      2 * bit (match s.engine.state with
        | .quiescing => true
        | .quiesced => true
        | .halted => s.engine.quiesceAtHalt
        | .running => false
        | .disabled => false) +
      4 * bit s.engine.flushOnQuiesce ∧
    s.readRegister 0x008 4 = (match s.engine.state with
        | .disabled => 0
        | .running => 1
        | .quiescing => 2
        | .quiesced => 3
        | .halted => 4) +
      2 ^ 3 * bit (s.media.link == .up) + 2 ^ 4 * bit s.engine.enableRefused + 2 ^ 5 * bit s.engine.quiesceResidue +
      2 ^ 6 * bit s.writeBack.activeFlushAll.isSome + 2 ^ 7 * bit s.writeBack.walk.isSome ∧
    (s.writeBack.unclean0 + s.writeBack.unclean1 ≤ 32768 → s.writeBack.dirtyOrder.length ≤ 32768 →
      s.readRegister 0x00C 4 =
        s.writeBack.unclean0 + s.writeBack.unclean1 + 2 ^ 16 * s.writeBack.dirtyOrder.length) ∧
    s.readRegister 0x010 4 = bit s.faults.entries[0].unreported + 2 * bit s.faults.entries[1].unreported +
      2 ^ 2 * bit s.faults.entries[2].unreported + 2 ^ 3 * bit s.faults.entries[3].unreported +
      2 ^ 4 * bit s.faults.entries[4].unreported + 2 ^ 8 * s.commands.noticeRequests.length ∧
    s.readRegister 0x020 8 = s.host.adminSubmissionBase.toNat ∧ s.readRegister 0x028 8 = s.host.adminCompletionBase.toNat ∧
    s.readRegister 0x020 4 = (s.host.adminSubmissionBase.extractLsb' 0 32).toNat ∧
    s.readRegister 0x024 4 = (s.host.adminSubmissionBase.extractLsb' 32 32).toNat ∧
    s.readRegister 0x028 4 = (s.host.adminCompletionBase.extractLsb' 0 32).toNat ∧
    s.readRegister 0x02C 4 = (s.host.adminCompletionBase.extractLsb' 32 32).toNat ∧
    s.readRegister 0x030 4 = s.host.adminRingSizes.toNat ∧
    (∀ offset, offset % 8 = 0 → offset ≠ 0x020 → offset ≠ 0x028 →
      s.readRegister offset 8 = s.readRegister offset 4 + 2 ^ 32 * s.readRegister (offset + 4) 4) ∧
    (∀ offset size, ¬((size = 4 ∨ size = 8) ∧ offset % size = 0) → s.readRegister offset size = 0) ∧
    (∀ offset, (offset = 0x004 ∨ (0x014 ≤ offset ∧ offset < 0x020) ∨ (0x034 ≤ offset ∧ offset < 0x100) ∨
        (0x140 ≤ offset ∧ offset < 0x180) ∨ 0x1C0 ≤ offset) → s.readRegister offset 4 = 0)

/-- R145, R168: a vector that becomes permitted sends its pending message; a coalescing timer that expires with records unsignalled
sends the ring's message, or makes its vector pending. That the expiry of a timer that does not run changes nothing is the model's choice
(notes/assumptions/2.md). -/
def Obligations.VectorAndTimerSendMessages : Prop :=
  (∀ (s : State) (v : VectorId),
    (s.host.vectorPending[v] = true →
      exec (.vectorUnmasked v) s = .next { s with host := { s.host with
        vectorPending := s.host.vectorPending.set v false, writes := s.host.writes ++ [.message v] } }) ∧
    (s.host.vectorPending[v] = false → exec (.vectorUnmasked v) s = .next s)) ∧
  ∀ (s : State) (n : RingId) (r : CompletionRing) (p : Bool), s.cr n = some r →
    ((r.timer.isSome = true ∧ 1 ≤ r.unsignalled) → p = true →
      exec (.coalescingTimerExpires n p) s =
        .next ((s.setCr n (some { r with unsignalled := 0, timer := none })).hostWrite (.message r.vector))) ∧
    ((r.timer.isSome = true ∧ 1 ≤ r.unsignalled) → p = false →
      exec (.coalescingTimerExpires n p) s =
        .next { s.setCr n (some { r with unsignalled := 0, timer := none }) with
          host := { s.host with vectorPending := s.host.vectorPending.set r.vector true } }) ∧
    (¬(r.timer.isSome = true ∧ 1 ≤ r.unsignalled) → exec (.coalescingTimerExpires n p) s = .next s)

/-! ### Fetching and posting -/

/-- R135, R136, and the discard of R138: a fetch that completes moves the head, reserves, and puts its record into the intake queue; one
that fails frees its context and faults the ring; the outcome of a DRAINING ring's fetch is discarded. -/
def Obligations.FetchEnds : Prop :=
  ∀ (s : State) (f : Fetch) (q : SubmissionRing) (record : Record), s.rings.fetch = some f → s.sr f.sr = some q →
    ((q.state = .active ∨ q.state = .faulted) →
      (∀ r, s.cr q.boundCr = some r →
        exec (.fetchCompletes record) s = .next (State.fetchArbiter (State.setCtx
          (State.setCr
            (State.setSr { s with rings := { s.rings with
                fetch := none, intake := s.rings.intake ++ [{ ctx := f.ctx, record := record }] } } f.sr
              (some { q with head := if q.head + 1 < q.entries then q.head + 1 else 0, fetchInFlight := false }))
            q.boundCr (some { r with reserved := if r.state = .active then r.reserved + 1 else r.reserved }))
          f.ctx (.fetching f.sr (r.state == .active))))) ∧
      exec .fetchFails s = .next (State.settleHost (State.faultSr (State.freeContext
        (State.setSr { s with rings := { s.rings with fetch := none } } f.sr
          (some { q with fetchInFlight := false })) f.ctx) f.sr .fetchError))) ∧
    (∀ u d, q.state = .draining u d →
      exec (.fetchCompletes record) s = .next (State.settleHost (State.freeContext
        (State.setSr { s with rings := { s.rings with fetch := none } } f.sr
          (some { q with fetchInFlight := false })) f.ctx)) ∧
      exec .fetchFails s = exec (.fetchCompletes record) s)

/-- R132, with the availability of R104 and the credit of R131: when a submission ring is eligible for a fetch. -/
def Obligations.EligibilityForFetch : Prop :=
  ∀ (s : State) (n : RingId),
    s.eligible n = true ↔
      ∃ q r, s.sr n = some q ∧ q.state = .active ∧ q.head ≠ q.tail ∧ s.engine.state = .running ∧
        (if n = 0 then 1 else 9) ≤ ((List.finRange 128).countP fun c => s.ctx c == Context.free) ∧
        s.cr q.boundCr = some r ∧ r.state = .active ∧
        (r.tail + r.entries - r.head) % r.entries + r.reserved + 1 ≤ r.entries - 1

/-- R133, R134: SR0 first; else the current SR while its turn lasts; else the eligible ring that comes first after it, which becomes the
current one with one grant used; and what a grant begins. Nothing is granted while a fetch is in flight or no ring is eligible. -/
def Obligations.ArbiterGrantsInTurn : Prop :=
  ∀ s : State,
    (s.rings.fetch ≠ none → s.fetchArbiter = s) ∧
    ((∀ n, s.eligible n = false) → s.fetchArbiter = s) ∧
    (s.rings.fetch = none → s.eligible 0 = true → s.fetchArbiter = s.grant 0) ∧
    (∀ q, s.rings.fetch = none → s.eligible 0 = false → s.eligible s.rings.currentSr = true →
      s.sr s.rings.currentSr = some q → s.rings.grantsUsed < q.weight →
      s.fetchArbiter = State.grant { s with rings := { s.rings with grantsUsed := s.rings.grantsUsed + 1 } }
        s.rings.currentSr) ∧
    (∀ n, s.rings.fetch = none → s.eligible 0 = false →
      (∀ q, s.eligible s.rings.currentSr = true → s.sr s.rings.currentSr = some q → q.weight ≤ s.rings.grantsUsed) →
      s.eligible n = true →
      (∀ m, s.eligible m = true →
        (if s.rings.currentSr < n then n.val else n.val + 16) ≤
          (if s.rings.currentSr < m then m.val else m.val + 16)) →
      s.fetchArbiter = State.grant { s with rings := { s.rings with currentSr := n, grantsUsed := 1 } } n) ∧
    (∀ n q c, s.sr n = some q → s.ctx c = .free → (∀ d, d < c → s.ctx d ≠ .free) →
      s.grant n = { s with
        commands := { s.commands with contexts := s.commands.contexts.set c (.fetching n false) },
        rings := { s.rings with
          srs := s.rings.srs.set n (some { q with fetchInFlight := true }), fetch := some { ctx := c, sr := n } },
        host := { s.host with reads := s.host.reads ++ [.fetch (q.base + 64 * q.head)] } })

/-- R141, R142: a completion write that ends. On an ACTIVE ring a success moves the tail, turns the phase at the wrap, and counts the
post; a refusal faults the ring. On a FAULTED ring only the reservation and the flag change. -/
def Obligations.CompletionWriteEnds : Prop :=
  ∀ (s : State) (n : RingId) (r : CompletionRing) (c : CtxId) (p : Bool), s.cr n = some r → r.writeInFlight = some c →
    (r.state = .active →
      ∀ (tail unsignalled : Nat) (phase : Bool) (timer : Option Nat),
        tail = (if r.tail + 1 < r.entries then r.tail + 1 else 0) →
        phase = (if r.tail + 1 < r.entries then r.phase else !r.phase) →
        unsignalled = (if r.interruptsOn then r.unsignalled + 1 else r.unsignalled) →
        timer = (if r.interruptsOn = true ∧ r.unsignalled = 0 ∧ 0 < r.coalesceTime then some r.coalesceTime
          else r.timer) →
        ((r.interruptsOn = true ∧ r.coalesceCount ≤ unsignalled) →
          exec (.completionWriteSucceeds n p) s = .next (State.settleHost (State.freeContext (State.issueRecord
            ((s.setCr n (some { r with
              tail := tail, phase := phase, reserved := r.reserved - 1, writeInFlight := none, unsignalled := 0,
              timer := none })).emit r.vector p) n) c))) ∧
        (¬(r.interruptsOn = true ∧ r.coalesceCount ≤ unsignalled) →
          exec (.completionWriteSucceeds n p) s = .next (State.settleHost (State.freeContext (State.issueRecord
            (s.setCr n (some { r with
              tail := tail, phase := phase, reserved := r.reserved - 1, writeInFlight := none,
              unsignalled := unsignalled, timer := timer })) n) c)))) ∧
    (r.state = .active →
      exec (.completionWriteFails n) s = .next (State.settleHost (State.judgeDelete (State.faultCr
        ((s.setCr n (some { r with reserved := r.reserved - 1, writeInFlight := none })).setCtx c .free) n .postError)
        (s.srOf c)))) ∧
    (r.state = .faulted →
      exec (.completionWriteSucceeds n p) s = .next (State.settleHost (State.freeContext
        (s.setCr n (some { r with reserved := r.reserved - 1, writeInFlight := none })) c)) ∧
      exec (.completionWriteFails n) s = .next (State.settleHost (State.judgeDelete (State.reportFault
        ((s.setCr n (some { r with reserved := r.reserved - 1, writeInFlight := none })).setCtx c .free)
        (.ring .cr n .postError)) (s.srOf c))))

/-! ### Lookup -/

/-- R10, R11, R13, R15, R68, R70: a lookup that hits. A READ, WRITE, PIN or DISCARD on a FILLING line joins its access queue; on a stable
line it starts if the queue is empty and its need is met, and otherwise joins the queue, which is then served. What each kind needs, and what
a DISCARD that starts does. That the relookup pass of an UNPIN follows its completion is the model's reading (notes/assumptions/11.md). -/
def Obligations.LookupHits : Prop :=
  (∀ ln : Line,
    (ln.exclusive = false → ln.judge .read = .starts) ∧ (ln.exclusive = true → ln.judge .read = .waits) ∧
    ((ln.readers = 0 ∧ ln.exclusive = false) → ln.judge .write = .starts) ∧
    (¬(ln.readers = 0 ∧ ln.exclusive = false) → ln.judge .write = .waits) ∧ ln.judge .pin = .starts ∧
    (0 < ln.pins → ln.judge .discard = .conflict) ∧
    (ln.pins = 0 → ((∃ x, ln.state = .clean x) ∨ ∃ x e, ln.state = .dirty x e) → ln.readers = 0 → ln.exclusive = false →
      ln.judge .discard = .starts) ∧
    (ln.pins = 0 → ((∃ x e, ln.state = .cleaning x e) ∨ (∃ x e f, ln.state = .redirty x e f) ∨ ln.readers ≠ 0 ∨
      ln.exclusive = true) → ln.judge .discard = .waits)) ∧
  (∀ (s : State) (l : LineId) (b : Bop) (x : Nat),
    ((s.line l).state = .clean x →
      s.startDiscard l b = (completeAll .discarded ((s.line l).watchers.map (·.bop))
        (((s.setWatchers l []).setAccessQueue l []).enterInvalid l)).completeBop b .ok) ∧
    (∀ e, (s.line l).state = .dirty x e →
      s.startDiscard l b = (completeAll .discarded ((s.line l).watchers.map (·.bop))
        (((((((s.leaveDirty l).unwantClean l).uncleanDown e).setWatchers l []).setAccessQueue l []).enterInvalid
          l))).completeBop b .ok)) ∧
  ∀ (s : State) (c : CtxId) (k : Nat) (b : Bop) (cmd : Command) (w : WayId) (l : LineId), s.Awaits c k b →
    s.command b.ctx = some cmd → s.isFenced (setOf b.block) = false → (s.cacheSet (setOf b.block)).badWay = none →
    (s.cacheSet (setOf b.block)).hitWay b.block = some w → l = ⟨setOf b.block, w⟩ →
    ((b.kind = .read ∨ b.kind = .write ∨ b.kind = .pin ∨ b.kind = .discard) → (s.line l).state.isFilling = true →
      exec (.lookup c k) s =
        .next ((s.takenFromLookup b).setAccessQueue l ((s.line l).accessQueue ++ [b])).settle) ∧
    ((b.kind = .read ∨ b.kind = .write ∨ b.kind = .pin ∨ b.kind = .discard) → (s.line l).state.isStable = true →
      ((s.line l).accessQueue ≠ [] ∨ (s.line l).judge b.kind = .waits) →
      exec (.lookup c k) s = .next (State.settleIf
        (((s.takenFromLookup b).setAccessQueue l ((s.line l).accessQueue ++ [b])).serve l).1
        (((s.takenFromLookup b).setAccessQueue l ((s.line l).accessQueue ++ [b])).serve l).2 (setOf b.block))) ∧
    ((s.line l).state.isStable = true → (s.line l).accessQueue = [] →
      (b.kind = .read → (s.line l).exclusive = false →
        exec (.lookup c k) s = .next (((s.takenFromLookup b).setLine l
            { s.line l with readers := (s.line l).readers + 1 }).handOver
          { kind := .readOut, bop := b, line := l, address := Rec.bufferAddress cmd.record + 4096 * b.offset,
            gather := [], received := 0, outstanding := 0, error := false }).settle) ∧
      (b.kind = .write → (s.line l).readers = 0 → (s.line l).exclusive = false →
        exec (.lookup c k) s = .next (((s.takenFromLookup b).setLine l { s.line l with exclusive := true }).handOver
          { kind := .writeIn, bop := b, line := l, address := Rec.bufferAddress cmd.record + 4096 * b.offset,
            gather := [], received := 0, outstanding := 4096, error := false }).settle) ∧
      (b.kind = .pin →
        (((s.line l).pins = 255 ∨ ((s.line l).pins = 0 ∧ (s.cacheSet l.set).otherPinned l.way = 6)) →
          exec (.lookup c k) s = .next ((s.takenFromLookup b).completeBop b .pinLimit).settle) ∧
        (¬((s.line l).pins = 255 ∨ ((s.line l).pins = 0 ∧ (s.cacheSet l.set).otherPinned l.way = 6)) →
          exec (.lookup c k) s = .next ((((s.takenFromLookup b).setLine l
            { s.line l with pins := (s.line l).pins + 1 }).touchWay l).completeBop b .ok).settle)) ∧
      (b.kind = .discard → 0 < (s.line l).pins →
        exec (.lookup c k) s = .next ((s.takenFromLookup b).completeBop b .pinConflict).settle) ∧
      (b.kind = .discard → (s.line l).judge .discard = .starts →
        exec (.lookup c k) s =
          .next (((s.takenFromLookup b).startDiscard l b).settleIf true (setOf b.block)))) ∧
    (b.kind = .unpin →
      (0 < (s.line l).pins →
        exec (.lookup c k) s = .next ((((s.takenFromLookup b).setLine l
          { s.line l with pins := (s.line l).pins - 1 }).completeBop b .ok).settleIf ((s.line l).pins == 1)
            (setOf b.block))) ∧
      ((s.line l).pins = 0 →
        exec (.lookup c k) s = .next ((s.takenFromLookup b).completeBop b .pinUnderflow).settle)) ∧
    (b.kind = .flush →
      (((s.line l).state.isFilling = true ∨ ∃ x, (s.line l).state = .clean x) →
        exec (.lookup c k) s = .next ((s.takenFromLookup b).completeBop b .ok).settle) ∧
      (((s.line l).state.isDirty = true ∨ ∃ x e f, (s.line l).state = .redirty x e f) →
        exec (.lookup c k) s = .next (((s.takenFromLookup b).setWatchers l
          ((s.line l).watchers ++ [{ bop := b, mark := .next }])).wantClean l).settle) ∧
      ((s.line l).state.isCleaning = true →
        exec (.lookup c k) s = .next ((s.takenFromLookup b).setWatchers l
          ((s.line l).watchers ++ [{ bop := b, mark := .current }])).settle))

/-- R4, R5, R18, R19: a lookup in a fenced set, one that finds a bad check code, and one that misses. R157 to R159, R66, R97: what fencing
does to the failed way, the intact ways, the lists, the slots, the counts and the capture table, and which block operations it completes with
FENCED, in which order. -/
def Obligations.LookupMissesOrMeetsAFence : Prop :=
  (∀ (s t : State) (S : SetId) (w : WayId) (l : LineId), l = ⟨S, w⟩ → t = s.fenceSet S w →
    (t.cacheSet S).fence = { (s.cacheSet S).fence with failedWay := some w, lost := (s.line l).state.isUnclean } ∧
    t.line l = { s.line l with
      state := .invalid, checkBad := false, pins := 0, cleanWanted := false, accessQueue := [], watchers := [] } ∧
    (∀ v, v ≠ w → t.line ⟨S, v⟩ = { s.line ⟨S, v⟩ with
      accessQueue := [], cleanWanted := (s.line ⟨S, v⟩).cleanWanted || (s.line ⟨S, v⟩).state.isDirty }) ∧
    (t.cacheSet S).waitList = [] ∧ (t.cacheSet S).recency = (s.cacheSet S).recency ∧
    (∀ R, R ≠ S → t.cacheSet R = s.cacheSet R) ∧
    (∀ (i : SlotId) (m : MediaSlot), s.slot i = some m → m.line = l → m.orphan = false →
      ((m.state = .drawing ∨ m.state = .awaiting) → t.slot i = some { m with orphan := true }) ∧
      ((m.state = .backoff ∨ m.state = .redrawWait) → t.slot i = none)) ∧
    (∀ i : SlotId, (∀ m, s.slot i = some m → m.line ≠ l ∨ m.orphan = true) → t.slot i = s.slot i) ∧
    t.media.fillQueue = s.media.fillQueue.filter (· != l) ∧ t.media.link = s.media.link ∧
    ((s.line l).state.isUnclean = false →
      (∀ e, t.unclean e = s.unclean e) ∧ t.writeBack.dirtyOrder = s.writeBack.dirtyOrder ∧
      t.writeBack.activeFlushAll = s.writeBack.activeFlushAll) ∧
    (∀ e, (s.line l).state.epoch = some e →
      t.unclean e = s.unclean e - 1 ∧ t.unclean e.other = s.unclean e.other ∧
      t.writeBack.dirtyOrder = s.writeBack.dirtyOrder.filter (· != l) ∧
      t.writeBack.activeFlushAll = (s.oldEpochFailure e .fenced).writeBack.activeFlushAll) ∧
    t.writeBack.urgent =
      (if (s.line l).state.isUnclean then s.writeBack.urgent.filter (· != l) else s.writeBack.urgent) ++
        ((List.finRange 8).filter fun v => v != w && (s.line ⟨S, v⟩).state.isDirty &&
          !(s.line ⟨S, v⟩).cleanWanted).map (LineId.mk S) ∧
    t.faults = (s.reportFault (.integrity S w (s.line l).state.isUnclean)).faults ∧ t.engine = s.engine ∧
    t.frames = s.frames ∧
    ∀ q, q = (s.line l).watchers.map (·.bop) ++ (s.line l).accessQueue ++
          (((List.finRange 8).filter (· != w)).flatMap fun v => (s.line ⟨S, v⟩).accessQueue) ++
          (s.cacheSet S).waitList →
      t.commands = (completeAll .fenced q s).commands ∧ t.rings = (completeAll .fenced q s).rings ∧
      t.host = (completeAll .fenced q s).host) ∧
  (∀ (s : State) (f : FlushAllRecord) (e : Epoch) (st : Status),
    (s.writeBack.activeFlushAll = none → s.oldEpochFailure e st = s) ∧
    (s.writeBack.activeFlushAll = some f → f.oldEpoch ≠ e → s.oldEpochFailure e st = s) ∧
    (s.writeBack.activeFlushAll = some f → f.oldEpoch = e → s.oldEpochFailure e st = s.flushAllFailure st)) ∧
  ∀ (s : State) (c : CtxId) (k : Nat) (b : Bop) (S : SetId), s.Awaits c k b → S = setOf b.block →
    (s.isFenced S = true →
      exec (.lookup c k) s = .next ((s.takenFromLookup b).completeBop b .fenced).settle) ∧
    (∀ w, s.isFenced S = false → (s.cacheSet S).badWay = some w →
      exec (.lookup c k) s = .next (((s.takenFromLookup b).fenceSet S w).completeBop b .fenced).settle) ∧
    (s.isFenced S = false → (s.cacheSet S).badWay = none → (s.cacheSet S).hitWay b.block = none →
      ((b.kind = .read ∨ b.kind = .pin) → s.media.link = .down →
        exec (.lookup c k) s = .next ((s.takenFromLookup b).completeBop b .offline).settle) ∧
      ((((b.kind = .read ∨ b.kind = .pin) ∧ s.media.link = .up) ∨ b.kind = .write) →
        ((s.cacheSet S).waitList ≠ [] ∨ (s.cacheSet S).victim = none) →
        exec (.lookup c k) s = .next (((s.takenFromLookup b).setWaitList S
          ((s.cacheSet S).waitList ++ [b])).askVictimClean S).settle) ∧
      (∀ w l, (s.cacheSet S).waitList = [] → (s.cacheSet S).victim = some w → l = ⟨S, w⟩ →
        ((b.kind = .read ∨ b.kind = .pin) → s.media.link = .up →
          exec (.lookup c k) s = .next (State.settleIf { ((s.takenFromLookup b).setLine l { s.line l with
              state := .filling b.block .media, checkBad := false,
              accessQueue := (s.line l).accessQueue ++ [b] }).touchWay l with
            media := { s.media with fillQueue := s.media.fillQueue ++ [l] } } true S)) ∧
        (b.kind = .write →
          exec (.lookup c k) s = .next (((((s.takenFromLookup b).setLine l { s.line l with
            state := .filling b.block .host, checkBad := false }).touchWay l).startWrite l b).settleIf true S))) ∧
      ((b.kind = .discard ∨ b.kind = .flush) →
        exec (.lookup c k) s = .next ((s.takenFromLookup b).completeBop b .ok).settle) ∧
      (b.kind = .unpin →
        exec (.lookup c k) s = .next ((s.takenFromLookup b).completeBop b .pinUnderflow).settle))

/-- R18: the victim is the lowest INVALID way; without one, the way nearest the least-recent end that is CLEAN, without pins, holds,
queue and clean wanted; without one, there is none. R20: the way that a stalled set asks to have cleaned. R22: a relookup pass visits the set
wait list from the oldest to the newest and looks each READ, WRITE and PIN up again; at its end, with waiters left, the check of R20 is made.
That the visited block operation is out of the list while it is looked up, and so completes after those that a fencing completes, is the
model's reading (notes/assumptions/22.md). -/
def Obligations.VictimIsChosen : Prop :=
  (∀ cs : CacheSet, (∀ w : WayId, cs.recency.count w = 1) →
    (∀ w : WayId, cs.ways[w].state = .invalid → (∀ v : WayId, v < w → cs.ways[v].state ≠ .invalid) →
      cs.victim = some w) ∧
    ((∀ w : WayId, cs.ways[w].state ≠ .invalid) →
      (∀ w : WayId, cs.victim = some w ↔
        (∃ x, cs.ways[w].state = .clean x) ∧ cs.ways[w].pins = 0 ∧ cs.ways[w].readers = 0 ∧
          cs.ways[w].exclusive = false ∧ cs.ways[w].accessQueue = [] ∧ cs.ways[w].cleanWanted = false ∧
          ∀ v : WayId, cs.recencyPosition w < cs.recencyPosition v →
            ¬((∃ x, cs.ways[v].state = .clean x) ∧ cs.ways[v].pins = 0 ∧ cs.ways[v].readers = 0 ∧
              cs.ways[v].exclusive = false ∧ cs.ways[v].accessQueue = [] ∧ cs.ways[v].cleanWanted = false)) ∧
      (cs.victim = none ↔
        ∀ v : WayId, ¬((∃ x, cs.ways[v].state = .clean x) ∧ cs.ways[v].pins = 0 ∧ cs.ways[v].readers = 0 ∧
          cs.ways[v].exclusive = false ∧ cs.ways[v].accessQueue = [] ∧ cs.ways[v].cleanWanted = false)))) ∧
  (∀ cs : CacheSet, (∀ w : WayId, cs.recency.count w = 1) →
    ((∃ v : WayId, cs.ways[v].state.isCleaning = true ∨ cs.ways[v].cleanWanted = true) → cs.victimClean = none) ∧
    ((∀ v : WayId, cs.ways[v].state.isCleaning = false ∧ cs.ways[v].cleanWanted = false) →
      (∀ w : WayId, cs.victimClean = some w ↔
        cs.ways[w].state.isDirty = true ∧ cs.ways[w].pins = 0 ∧ cs.ways[w].exclusive = false ∧
          ∀ v : WayId, cs.recencyPosition w < cs.recencyPosition v →
            ¬(cs.ways[v].state.isDirty = true ∧ cs.ways[v].pins = 0 ∧ cs.ways[v].exclusive = false)) ∧
      (cs.victimClean = none ↔
        ∀ v : WayId, ¬(cs.ways[v].state.isDirty = true ∧ cs.ways[v].pins = 0 ∧ cs.ways[v].exclusive = false)))) ∧
  (∀ (s : State) (S : SetId),
    ((s.cacheSet S).victimClean = none → s.askVictimClean S = s) ∧
    (∀ w u, (s.cacheSet S).victimClean = some w →
      u = s.setLine ⟨S, w⟩ { s.line ⟨S, w⟩ with cleanWanted := true } →
      s.askVictimClean S =
        { u with writeBack := { s.writeBack with urgent := s.writeBack.urgent ++ [⟨S, w⟩] } }) ∧
    ((s.cacheSet S).waitList = [] → s.pass S = s) ∧
    (∀ q u, q = (s.cacheSet S).waitList → q ≠ [] → u = passLoop S q s →
      s.pass S = if (u.cacheSet S).waitList = [] then u else u.askVictimClean S) ∧
    passLoop S [] s = s) ∧
  ∀ (s u : State) (S : SetId) (b : Bop) (bs : List Bop), setOf b.block = S →
    u = s.setWaitList S ((s.cacheSet S).waitList.filter (· != b)) →
    (b ∉ (s.cacheSet S).waitList → passLoop S (b :: bs) s = passLoop S bs s) ∧
    (b ∈ (s.cacheSet S).waitList → (b.kind = .read ∨ b.kind = .write ∨ b.kind = .pin) →
      (s.isFenced S = true → passLoop S (b :: bs) s = passLoop S bs (u.completeBop b .fenced)) ∧
      (∀ w, s.isFenced S = false → (s.cacheSet S).badWay = some w →
        passLoop S (b :: bs) s = passLoop S bs ((u.fenceSet S w).completeBop b .fenced)) ∧
      (s.isFenced S = false → (s.cacheSet S).badWay = none →
        ((s.cacheSet S).hitWay b.block = none →
          (b.kind ≠ .write → s.media.link = .down →
            passLoop S (b :: bs) s = passLoop S bs (u.completeBop b .offline)) ∧
          ((b.kind = .write ∨ s.media.link = .up) → (s.cacheSet S).victim = none →
            passLoop S (b :: bs) s = passLoop S bs s) ∧
          (∀ w l, (s.cacheSet S).victim = some w → l = ⟨S, w⟩ →
            (b.kind ≠ .write → s.media.link = .up →
              passLoop S (b :: bs) s = passLoop S bs { (u.setLine l { s.line l with
                  state := .filling b.block .media, checkBad := false,
                  accessQueue := (s.line l).accessQueue ++ [b] }).touchWay l with
                media := { s.media with fillQueue := s.media.fillQueue ++ [l] } }) ∧
            (b.kind = .write →
              passLoop S (b :: bs) s = passLoop S bs (((u.setLine l { s.line l with
                state := .filling b.block .host, checkBad := false }).touchWay l).startWrite l b)))) ∧
        (∀ w l, (s.cacheSet S).hitWay b.block = some w → l = ⟨S, w⟩ →
          ((s.line l).state.isFilling = true →
            passLoop S (b :: bs) s = passLoop S bs (u.setAccessQueue l ((s.line l).accessQueue ++ [b]))) ∧
          ((s.line l).state.isStable = true →
            (((s.line l).accessQueue ≠ [] ∨ (s.line l).judge b.kind = .waits) →
              passLoop S (b :: bs) s =
                passLoop S bs ((u.setAccessQueue l ((s.line l).accessQueue ++ [b])).serve l).1) ∧
            ((s.line l).accessQueue = [] → (s.line l).judge b.kind = .starts →
              (b.kind = .read → passLoop S (b :: bs) s = passLoop S bs (u.startRead l b)) ∧
              (b.kind = .write → passLoop S (b :: bs) s = passLoop S bs (u.startWrite l b)) ∧
              (b.kind = .pin → passLoop S (b :: bs) s = passLoop S bs (u.startPin l b)))))))

/-- R5: the check code of a way that is not INVALID goes bad, and nothing else of the state changes. That nothing changes for an INVALID
way, which has no code, is the model's choice (notes/assumptions/2.md). -/
def Obligations.CheckCodeGoesBadAlone : Prop :=
  ∀ (s : State) (S : SetId) (w : WayId),
    ((s.line ⟨S, w⟩).state ≠ .invalid →
      exec (.checkCodeGoesBad S w) s = .next (s.setLine ⟨S, w⟩ { s.line ⟨S, w⟩ with checkBad := true })) ∧
    ((s.line ⟨S, w⟩).state = .invalid → exec (.checkCodeGoesBad S w) s = .next s)

/-! ### Transfers -/

/-- R37, R38, R42: a read-out sends the frame and releases its read hold, and its READ completes OK, HOST_BUS_ERROR, or FENCED on a line that
has been given up; the way moves to the front at success only. That the relookup pass follows the completion and the release of the channel is the
model's reading (notes/assumptions/11.md). R9, R14, R15, R17: the release serves the access queue, which goes from the head until a block
operation cannot start; a DISCARD that starts ends it and has the rest looked up again. -/
def Obligations.ReadOutEnds : Prop :=
  (∀ (s : State) (i : ChannelId) (x : Transfer) (cmd : Command) (l : LineId), s.channel i = some x → x.kind = .readOut →
    s.command x.bop.ctx = some cmd → l = x.line →
    ((s.line l).state ≠ .invalid →
      exec (.readOutCompletes i) s = .next (State.settleIf
        (((((s.hostWrite (.readOut x.address (s.frame l))).releaseRead l).1.touchWay l).completeBop x.bop
          .ok).releaseChannel i)
        ((s.hostWrite (.readOut x.address (s.frame l))).releaseRead l).2 l.set) ∧
      exec (.readOutRefused i) s = .next (State.settleIf
        (((((s.hostWrite (.readOutRefused x.address)).releaseRead l).1.completeBop x.bop .hostBusError).reportFault
          (.hostBus x.address .readOut cmd.sr (Rec.commandId cmd.record))).releaseChannel i)
        ((s.hostWrite (.readOutRefused x.address)).releaseRead l).2 l.set)) ∧
    ((s.line l).state = .invalid →
      exec (.readOutCompletes i) s = .next (State.settleIf
        ((((s.hostWrite (.readOut x.address (s.frame l))).releaseRead l).1.completeBop x.bop
          .fenced).releaseChannel i)
        ((s.hostWrite (.readOut x.address (s.frame l))).releaseRead l).2 l.set) ∧
      exec (.readOutRefused i) s = .next (State.settleIf
        (((((s.hostWrite (.readOutRefused x.address)).releaseRead l).1.completeBop x.bop .fenced).reportFault
          (.hostBus x.address .readOut cmd.sr (Rec.commandId cmd.record))).releaseChannel i)
        ((s.hostWrite (.readOutRefused x.address)).releaseRead l).2 l.set))) ∧
  (∀ (s u : State) (l : LineId), u = s.setLine l { s.line l with readers := (s.line l).readers - 1 } →
    s.releaseRead l = ((u.serve l).1, decide ((s.line l).readers ≤ 1 ∧ (s.line l).exclusive = false) || (u.serve l).2)) ∧
  ∀ (s : State) (l : LineId),
    ((s.line l).accessQueue = [] → s.serve l = (s, false)) ∧
    ∀ (b : Bop) (rest : List Bop) (u : State), (s.line l).accessQueue = b :: rest → u = s.setAccessQueue l rest →
      ((s.line l).state.isStable = false → s.serve l = (s, false)) ∧
      ((s.line l).state.isStable = true →
        ((s.line l).judge b.kind = .waits → s.serve l = (s, false)) ∧
        ((s.line l).judge b.kind = .conflict →
          s.serve l = (((u.completeBop b .pinConflict).serve l).1,
            rest.isEmpty || ((u.completeBop b .pinConflict).serve l).2)) ∧
        ((s.line l).judge b.kind = .starts →
          (b.kind = .read →
            s.serve l = (((u.startRead l b).serve l).1, rest.isEmpty || ((u.startRead l b).serve l).2)) ∧
          (b.kind = .write →
            s.serve l = (((u.startWrite l b).serve l).1, rest.isEmpty || ((u.startWrite l b).serve l).2)) ∧
          (b.kind = .pin →
            s.serve l = (((u.startPin l b).serve l).1, rest.isEmpty || ((u.startPin l b).serve l).2)) ∧
          (b.kind = .discard → s.serve l = (relookDetached rest (u.startDiscard l b), true))))

/-- R39, R40, R42: a piece of data is gathered; the last one commits the whole block into the frame, or nothing if the line has been given
up; after an error it only answers reads. How the bytes of unanswered reads are counted, that the relookup pass follows the release of the
channel, and that the durable watch begins before the hold is released, are the model's readings (notes/assumptions/10.md, 11.md, 12.md); that
data for a channel without a write-in, or that no unanswered read can return, changes nothing is its choice (notes/assumptions/2.md). R9, R64:
the release of the exclusive hold lets a waiting redraw begin and then serves the access queue; that it is a set change though the redraw takes
a hold is the model's reading (notes/assumptions/17.md). -/
def Obligations.WriteInGathersAndCommits : Prop :=
  (∀ (s : State) (i : ChannelId) (x : Transfer) (p : Nat) (d : List Byte) (l : LineId), s.channel i = some x →
    x.kind = .writeIn → x.takes p d = true → l = x.line →
    (x.error = true →
      exec (.writeInData i p d) s = .next (if x.outstanding = d.length then s.releaseChannel i
        else s.setChannel i (some { x with outstanding := x.outstanding - d.length }))) ∧
    (x.error = false → x.received + d.length ≠ 4096 →
      exec (.writeInData i p d) s = .next (s.setChannel i (some (x.place p d)))) ∧
    (x.error = false → x.received + d.length = 4096 → (s.line l).state = .invalid →
      exec (.writeInData i p d) s = .next (State.settleIf
        (((s.releaseExclusive l).1.completeBop x.bop .fenced).releaseChannel i) (s.releaseExclusive l).2 l.set)) ∧
    (x.error = false → x.received + d.length = 4096 → (s.line l).state ≠ .invalid →
      ∀ u : State, u = (((s.setFrame l ((x.place p d).gather.map Prod.snd)).touchWay l).commitLine l) →
        (x.bop.durable = false →
          exec (.writeInData i p d) s = .next (State.settleIf
            (((u.releaseExclusive l).1.completeBop x.bop .ok).releaseChannel i) (u.releaseExclusive l).2 l.set)) ∧
        (x.bop.durable = true →
          exec (.writeInData i p d) s = .next (State.settleIf
            (((u.watchNext l x.bop).releaseExclusive l).1.releaseChannel i)
            ((u.watchNext l x.bop).releaseExclusive l).2 l.set)))) ∧
  (∀ (s : State) (i : ChannelId) (p : Nat) (d : List Byte),
    (∀ x, s.channel i = some x → x.kind ≠ .writeIn ∨ x.takes p d = false) → exec (.writeInData i p d) s = .next s) ∧
  ∀ (s v : State) (l : LineId), v = s.setLine l { s.line l with exclusive := false } →
    ((∀ i m, s.slot i = some m → m.line = l → m.orphan = false → m.state ≠ .redrawWait) →
      s.releaseExclusive l = ((v.serve l).1, decide ((s.line l).readers = 0) || (v.serve l).2)) ∧
    (∀ (i : SlotId) (m : MediaSlot) (u : State), s.slot i = some m → m.line = l → m.orphan = false → m.state = .redrawWait →
      (∀ j x, j < i → s.slot j = some x → x.line = l → x.orphan = false → x.state ≠ .redrawWait) →
      u = v.beginRedraw i m →
      ((∀ x e f, (s.line l).state ≠ .redirty x e f) →
        s.releaseExclusive l = ((u.serve l).1, decide ((s.line l).readers = 0) || (u.serve l).2)) ∧
      (∀ x e f, (s.line l).state = .redirty x e f → s.releaseExclusive l = ((u.serve l).1, true)))

/-- Table 2.3 with R50, R51, R53: what a commit makes of the line, of the unclean counts and of the dirty order list. -/
def Obligations.CommitMakesTheLineUnclean : Prop :=
  ∀ (s : State) (l : LineId) (e : Epoch), e = s.writeBack.currentEpoch →
    (∀ x, ((s.line l).state = .clean x ∨ ∃ src, (s.line l).state = .filling x src) →
      ((s.commitLine l).line l).state = .dirty x e ∧ (s.commitLine l).unclean e = s.unclean e + 1 ∧
      (s.commitLine l).unclean e.other = s.unclean e.other ∧
      (s.commitLine l).writeBack.dirtyOrder = s.writeBack.dirtyOrder ++ [l] ∧
      ((s.commitLine l).line l).cleanWanted = ((s.line l).cleanWanted || s.isFenced l.set)) ∧
    (∀ x f, (s.line l).state = .cleaning x f → s.commitLine l = s.setLineState l (.redirty x f e)) ∧
    (∀ x f, (s.line l).state = .dirty x f → s.commitLine l = s) ∧
    (∀ x f g, (s.line l).state = .redirty x f g → s.commitLine l = s)

/-- R39, R41, R42: the first failed read of a write-in releases the exclusive hold, completes its WRITE and reports a HOST_BUS fault; the
frame is not touched, a FILLING line becomes INVALID and its queue is looked up again (R17). A later one changes only what is unanswered. How
the bytes of unanswered reads are counted, and that the relookup pass follows the settling of the channel, are the model's readings
(notes/assumptions/10.md, 11.md), as is how a detached queue is looked up (notes/assumptions/18.md). -/
def Obligations.WriteInFails : Prop :=
  (∀ (s : State) (i : ChannelId) (x : Transfer) (n : Nat) (l : LineId), s.channel i = some x →
    x.kind = .writeIn → n < x.outstanding → l = x.line →
    (∀ cmd : Command, s.command x.bop.ctx = some cmd → x.error = false →
      exec (.writeInReadFailed i n) s = .next (State.settleIf
        (State.settleChannel (State.reportFault ((s.releaseFailed l).1.completeBop x.bop
            (if (s.line l).state = .invalid then .fenced else .hostBusError))
          (.hostBus x.address .writeIn cmd.sr (Rec.commandId cmd.record))) i
          { x with gather := [], error := true, outstanding := n })
        (s.releaseFailed l).2 l.set)) ∧
    (x.error = true →
      exec (.writeInReadFailed i n) s =
        .next (if n = 0 then s.releaseChannel i else s.setChannel i (some { x with outstanding := n }))) ∧
    ((s.line l).state.isFilling = true →
      s.releaseFailed l = (relookDetached (s.line l).accessQueue (State.enterInvalid (s.setLine l
        { s.line l with exclusive := false, accessQueue := [] }) l), true)) ∧
    ((s.line l).state.isFilling = false → s.releaseFailed l = s.releaseExclusive l)) ∧
  (∀ s : State, relookDetached [] s = s) ∧
  ∀ (s : State) (S : SetId) (b : Bop) (bs : List Bop), setOf b.block = S →
    (s.isFenced S = true → relookDetached (b :: bs) s = relookDetached bs (s.completeBop b .fenced)) ∧
    (∀ w, s.isFenced S = false → (s.cacheSet S).badWay = some w →
      relookDetached (b :: bs) s = relookDetached bs ((s.fenceSet S w).completeBop b .fenced)) ∧
    (s.isFenced S = false → (s.cacheSet S).badWay = none →
      ((s.cacheSet S).hitWay b.block = none →
        (b.kind = .discard → relookDetached (b :: bs) s = relookDetached bs (s.completeBop b .ok)) ∧
        ((b.kind = .read ∨ b.kind = .pin) → s.media.link = .down →
          relookDetached (b :: bs) s = relookDetached bs (s.completeBop b .offline)) ∧
        ((((b.kind = .read ∨ b.kind = .pin) ∧ s.media.link = .up) ∨ b.kind = .write) → (s.cacheSet S).victim = none →
          relookDetached (b :: bs) s = relookDetached bs
            ((s.setWaitList S ((s.cacheSet S).waitList ++ [b])).askVictimClean S)) ∧
        (∀ w l, (s.cacheSet S).victim = some w → l = ⟨S, w⟩ →
          ((b.kind = .read ∨ b.kind = .pin) → s.media.link = .up →
            relookDetached (b :: bs) s = relookDetached bs { (s.setLine l { s.line l with
                state := .filling b.block .media, checkBad := false,
                accessQueue := (s.line l).accessQueue ++ [b] }).touchWay l with
              media := { s.media with fillQueue := s.media.fillQueue ++ [l] } }) ∧
          (b.kind = .write →
            relookDetached (b :: bs) s = relookDetached bs (((s.setLine l { s.line l with
              state := .filling b.block .host, checkBad := false }).touchWay l).startWrite l b)))) ∧
      (∀ w l, (s.cacheSet S).hitWay b.block = some w → l = ⟨S, w⟩ →
        (b.kind = .read ∨ b.kind = .write ∨ b.kind = .pin ∨ b.kind = .discard) → (s.line l).state.isFilling = true →
        relookDetached (b :: bs) s = relookDetached bs (s.setAccessQueue l ((s.line l).accessQueue ++ [b]))))

/-! ### The media link -/

/-- R61, R88: the draw's data has gone out, the slot awaits its response with its timer started, and the read hold is released. That nothing
changes for a slot that is not drawing is the model's choice (notes/assumptions/2.md). R59, R85 to R88, R60: what the issue arbiter issues and
into which slot: nothing with the link DOWN or no slot FREE; below 4 cleans in flight a clean first, then a fill, then a clean below 16. Which
line is supplied, what an issue sets, and that a run goes on until nothing can be issued. R21: one pass for each set that the draws of the run
have changed, but for one whose pass the event has run. That a run stands at the end of an event, that these passes follow its issues, and that
such a set gets no further pass are the model's readings (notes/assumptions/11.md); their order is its choice (notes/assumptions/23.md). -/
def Obligations.DrawCompletes : Prop :=
  (∀ (s : State) (i : SlotId) (m : MediaSlot), s.slot i = some m →
    (m.state = .drawing →
      ∀ u : State, u = (s.mediaSend (.writeData i m.attempt (s.frame m.line))).setSlot i
          (some { m with state := .awaiting, timer := some (1000 * m.timeout) }) →
        exec (.drawCompletes i) s =
          .next ((u.releaseRead m.line).1.settleIf (u.releaseRead m.line).2 m.line.set)) ∧
    (m.state ≠ .drawing → exec (.drawCompletes i) s = .next s)) ∧
  (∀ (s : State) (c : Nat),
    c = ((List.finRange 32).countP fun j => match s.slot j with
      | some m => m.kind == .clean
      | none => false) →
    (s.media.link = .down → s.issueOne = none) ∧ ((∀ i, s.slot i ≠ none) → s.issueOne = none) ∧
    ∀ i : SlotId, s.media.link = .up → s.slot i = none → (∀ j, j < i → s.slot j ≠ none) →
      (s.supply = none → s.media.fillQueue = [] → s.issueOne = none) ∧
      (∀ f fs, s.supply = none → s.media.fillQueue = f :: fs → s.issueOne = some (s.issueFill i f, none)) ∧
      (∀ l, s.supply = some l → c < 4 → s.issueOne = some (s.issueClean i l, some l.set)) ∧
      (∀ l f fs, s.supply = some l → 4 ≤ c → s.media.fillQueue = f :: fs → s.issueOne = some (s.issueFill i f, none)) ∧
      (∀ l, s.supply = some l → 4 ≤ c → c < 16 → s.media.fillQueue = [] → s.issueOne = some (s.issueClean i l, some l.set)) ∧
      (∀ l, s.supply = some l → 16 ≤ c → s.media.fillQueue = [] → s.issueOne = none)) ∧
  (∀ s : State,
    (∀ l pre post, s.writeBack.urgent = pre ++ l :: post →
      (∀ x ∈ pre, ¬((s.line x).state.isDirty = true ∧ (s.line x).exclusive = false)) → (s.line l).state.isDirty = true →
      (s.line l).exclusive = false → s.supply = some l) ∧
    ((∀ x ∈ s.writeBack.urgent, ¬((s.line x).state.isDirty = true ∧ (s.line x).exclusive = false)) →
      (∀ l pre post, (s.writeBack.pressure = true ∨ s.writeBack.activeFlushAll.isSome = true ∨
          (s.engine.state = .quiescing ∧ s.engine.flushOnQuiesce = true)) →
        s.writeBack.dirtyOrder = pre ++ l :: post → (∀ x ∈ pre, (s.line x).exclusive = true) →
        (s.line l).exclusive = false → s.supply = some l) ∧
      ((¬(s.writeBack.pressure = true ∨ s.writeBack.activeFlushAll.isSome = true ∨
          (s.engine.state = .quiescing ∧ s.engine.flushOnQuiesce = true)) ∨
          ∀ x ∈ s.writeBack.dirtyOrder, (s.line x).exclusive = true) → s.supply = none))) ∧
  (∀ (s : State) (i : SlotId) (l : LineId) (b : Nat), (s.line l).state.block = some b →
    s.issueFill i l =
      (({ s with media := { s.media with fillQueue := s.media.fillQueue.filter (· != l) } } : State).setSlot i (some
        { state := .awaiting, kind := .fill, block := b, line := l, attempt := 0, timeout := s.media.timeout,
          retryLimit := s.media.retryLimit, timer := some (1000 * s.media.timeout), orphan := false })).mediaSend
        (.read (requestHeader .fill i 0 b)) ∧
    ∀ u : State, u = ((s.setSlot i (some
        { state := .drawing, kind := .clean, block := b, line := l, attempt := 0, timeout := s.media.timeout,
          retryLimit := s.media.retryLimit, timer := none, orphan := false })).mediaSend
        (.writeHeader (requestHeader .clean i 0 b))).beginDraw l →
      s.issueClean i l = (u.serve l).1) ∧
  (∀ (s t : State) (l : LineId) (b : Nat) (e : Epoch), (s.line l).state = .dirty b e → t = s.beginDraw l →
    t.line l = { s.line l with
      state := .cleaning b e, readers := (s.line l).readers + 1, cleanWanted := false,
      watchers := (s.line l).watchers.map fun w => { w with mark := .current } } ∧
    (∀ x, x ≠ l → t.line x = s.line x) ∧ t.writeBack.dirtyOrder = s.writeBack.dirtyOrder.filter (· != l) ∧
    t.writeBack.urgent = s.writeBack.urgent.filter (· != l) ∧ (∀ f, t.unclean f = s.unclean f) ∧
    (l ∈ s.writeBack.dirtyOrder → t.writeBack.pressure =
      if s.writeBack.highMark ≤ t.writeBack.dirtyOrder.length then true
      else if t.writeBack.dirtyOrder.length ≤ s.writeBack.lowMark then false
      else s.writeBack.pressure)) ∧
  (∀ (s t : State) (n : Nat) (passed changed : List SetId) (d : Option SetId),
    s.issueArbiter passed = issueLoop 64 passed [] s ∧
    (s.judgeFlushAll.issueOne = some (t, d) →
      issueLoop (n + 1) passed changed s = issueLoop n passed (noteDraw passed d changed) t) ∧
    (s.judgeFlushAll.issueOne = none →
      issueLoop (n + 1) passed [] s = s.judgeFlushAll ∧
      (changed ≠ [] → issueLoop (n + 1) passed changed s =
        issueLoop n (passed ++ changed) [] (passAll changed s.judgeFlushAll))) ∧
    (s.issueArbiter passed).issueOne = none ∧ noteDraw passed none changed = changed ∧
    ∀ S, (S ∈ passed ∨ S ∈ changed → noteDraw passed (some S) changed = changed) ∧
      (S ∉ passed → S ∉ changed → noteDraw passed (some S) changed = changed ++ [S])) ∧
  ∀ (s : State) (sets : List SetId) (changed : Bool) (S : SetId),
    s.settleAfter sets = (s.issueArbiter sets).judgeUnfence.settleHost ∧ s.settle = s.settleAfter [] ∧
    s.settleSets sets = (passAll sets s).settleAfter sets ∧
    s.settleIf changed S = s.settleSets (if changed then [S] else [])

/-- R89 to R92, R95, R97, R184: a response is dropped unless the slot of its tag awaits that attempt for that block; a matching one frees an
orphan, lands a fill, ends a clean, backs the slot off, or fails it finally. A message of no known kind changes nothing. R63, R65, R160: a
clean that is DONE answers the CURRENT watchers, and in a fenced set counts as salvaged or is placed for salvage. -/
def Obligations.ResponseIsJudged : Prop :=
  (∀ (s : State) (m : List Byte), exec (.unknownMessage m) s = .next s) ∧
  (∀ (s : State) (l : LineId) (st : Status), s.answerWatchers l st =
    completeAll st (((s.line l).watchers.filter (·.mark == .current)).map (·.bop))
      (s.setWatchers l ((s.line l).watchers.filter (·.mark == .next)))) ∧
  ∀ (s : State) (m : List Byte) (i : SlotId) (attempt block result : Nat) (data : Option (List Byte)),
    parseMessage m = .response i attempt block result data →
    ((s.slot i = none ∨ ∃ x, s.slot i = some x ∧
        (x.state ≠ .awaiting ∨ x.attempt ≠ attempt ∨ x.block ≠ block)) → exec (.response m) s = .next s) ∧
    (∀ x, s.slot i = some x → x.state = .awaiting → x.attempt = attempt → x.block = block →
      (x.orphan = true → exec (.response m) s = .next (s.setSlot i none).settle) ∧
      (x.orphan = false →
        (∀ d b src u, x.kind = .fill → data = some d → result = 0 → s.isFenced x.line.set = false →
          (s.line x.line).state = .filling b src →
          u = (((s.setSlot i none).setFrame x.line d).setLineState x.line (.clean b)).touchWay x.line →
          exec (.response m) s = .next ((u.serve x.line).1.settleIf true x.line.set)) ∧
        (∀ d u, x.kind = .fill → data = some d → result = 0 → s.isFenced x.line.set = true →
          u = ((s.setSlot i none).setFrame x.line d).enterInvalid x.line →
          exec (.response m) s = .next ((u.serve x.line).1.settleIf true x.line.set)) ∧
        (∀ b e u, x.kind = .clean → data = none → result = 0 → s.isFenced x.line.set = false →
          (s.line x.line).state = .cleaning b e →
          u = (((s.setSlot i none).setLineState x.line (.clean b)).uncleanDown e).answerWatchers x.line .ok →
          exec (.response m) s = .next ((u.serve x.line).1.settleIf true x.line.set)) ∧
        (∀ b e f u, x.kind = .clean → data = none → result = 0 → s.isFenced x.line.set = false →
          (s.line x.line).state = .redirty b e f →
          u = (((((s.setSlot i none).setLineState x.line (.dirty b f)).uncleanDown e).uncleanUp f).joinDirty
            x.line).answerWatchers x.line .ok →
          exec (.response m) s = .next ((u.serve x.line).1.settleIf true x.line.set)) ∧
        (∀ b e u, x.kind = .clean → data = none → result = 0 → s.isFenced x.line.set = true →
          (s.line x.line).state = .cleaning b e →
          u = ((((s.setSlot i none).setLineState x.line (.clean b)).uncleanDown e).setFence x.line.set
            { (s.cacheSet x.line.set).fence with
              salvaged := min ((s.cacheSet x.line.set).fence.salvaged + 1) 255 }).answerWatchers x.line .ok →
          exec (.response m) s = .next ((u.serve x.line).1.settleIf true x.line.set)) ∧
        (∀ b e f u, x.kind = .clean → data = none → result = 0 → s.isFenced x.line.set = true →
          (s.line x.line).state = .redirty b e f →
          u = ((((((s.setSlot i none).setLineState x.line (.dirty b f)).uncleanDown e).uncleanUp f).joinDirty
            x.line).wantClean x.line).answerWatchers x.line .ok →
          exec (.response m) s = .next ((u.serve x.line).1.settleIf true x.line.set)) ∧
        (data = none → result = 2 → x.attempt < x.retryLimit →
          exec (.response m) s = .next (s.setSlot i (some { x with state := .backoff, timer := some 100 })).settle) ∧
        (data = none → result = 2 → x.retryLimit ≤ x.attempt →
          exec (.response m) s = .next ((s.failSlot i x .mediaBusy).1.settleIf (s.failSlot i x .mediaBusy).2 x.line.set)) ∧
        (¬(x.kind = .fill ∧ data.isSome = true ∧ result = 0) → ¬(x.kind = .clean ∧ data = none ∧ result = 0) →
          ¬(data = none ∧ result = 2) →
          exec (.response m) s = .next ((s.failSlot i x .mediaFault).1.settleIf (s.failSlot i x .mediaFault).2 x.line.set))))

/-- R93 to R95, R97: a response timer that expires, and a busy delay that ends. That nothing changes for a slot that is not in the state is
the model's choice (notes/assumptions/2.md). R64, R94: what a retry does. R46, R47, R65, R66, R95, R160, R161: what a final failure does to a
fill's line and its queue, and to a clean's line, in a set that is fenced or not. -/
def Obligations.SlotTimersExpire : Prop :=
  (∀ (s : State) (i : SlotId) (m : MediaSlot), s.slot i = some m →
    (m.state = .awaiting →
      (m.orphan = true → exec (.responseTimeout i) s = .next (s.setSlot i none).settle) ∧
      (m.orphan = false → m.attempt < m.retryLimit →
        exec (.responseTimeout i) s = .next ((s.retry i m).1.settleIf (s.retry i m).2 m.line.set)) ∧
      (m.orphan = false → m.retryLimit ≤ m.attempt →
        exec (.responseTimeout i) s =
          .next ((s.failSlot i m .mediaTimeout).1.settleIf (s.failSlot i m .mediaTimeout).2 m.line.set))) ∧
    (m.state ≠ .awaiting → exec (.responseTimeout i) s = .next s) ∧
    (m.state = .backoff →
      exec (.busyDelayExpires i) s = .next ((s.retry i m).1.settleIf (s.retry i m).2 m.line.set)) ∧
    (m.state ≠ .backoff → exec (.busyDelayExpires i) s = .next s) ∧
    (m.kind = .fill → s.retry i m = ((s.setSlot i (some { m with
      state := .awaiting, attempt := m.attempt + 1, timeout := s.media.timeout, retryLimit := s.media.retryLimit,
      timer := some (1000 * s.media.timeout) })).mediaSend (.read (requestHeader .fill i (m.attempt + 1) m.block)), false)) ∧
    (m.kind = .clean → (s.line m.line).exclusive = true →
      s.retry i m = (s.setSlot i (some { m with state := .redrawWait, timer := none }), false)) ∧
    (∀ u : State, m.kind = .clean → (s.line m.line).exclusive = false → u = s.beginRedraw i m →
      ((∀ x e f, (s.line m.line).state ≠ .redirty x e f) → s.retry i m = (u, false)) ∧
      (∀ x e f, (s.line m.line).state = .redirty x e f → s.retry i m = ((u.serve m.line).1, true))) ∧
    (∀ (st : Status) (l : LineId) (v : State), l = m.line →
      v = (if st = .offline then s else s.reportFault (.media m.block m.kind st)).setSlot i none →
      (m.kind = .fill → s.isFenced l.set = true → s.failSlot i m st = (((v.enterInvalid l).serve l).1, true)) ∧
      (∀ x src pre rest, m.kind = .fill → s.isFenced l.set = false → (s.line l).state = .filling x src →
        (s.line l).accessQueue = pre ++ rest → (∀ b ∈ pre, b.kind ≠ .write) →
        (rest = [] → s.failSlot i m st = ((failQueued st pre (v.setAccessQueue l [])).enterInvalid l, true)) ∧
        (∀ b more, rest = b :: more → b.kind = .write → s.failSlot i m st =
          ((((failQueued st pre (v.setAccessQueue l rest)).setAccessQueue l more).setLineState l
            (.filling x .host)).startWrite l b, true))) ∧
      (m.kind = .clean → s.isFenced l.set = false →
        s.failSlot i m st = ((((v.returnDirty l st).answerWatchers l st).serve l).1, true)) ∧
      (m.kind = .clean → s.isFenced l.set = true →
        s.failSlot i m st = (((v.dropLine l).serve l).1, true)))) ∧
  (∀ (s t : State) (i : SlotId) (m : MediaSlot) (l : LineId), l = m.line → t = s.beginRedraw i m →
    t.slot i = some { m with
      state := .drawing, kind := .clean, attempt := m.attempt + 1, timeout := s.media.timeout,
      retryLimit := s.media.retryLimit, timer := none } ∧
    (∀ j, j ≠ i → t.slot j = s.slot j) ∧
    t.media.requests = s.media.requests ++ [.writeHeader (requestHeader .clean i (m.attempt + 1) m.block)] ∧
    t.line l = { s.line l with
      state := (match (s.line l).state with
        | .redirty x e _ => .cleaning x e
        | .cleaning x e => .cleaning x e
        | .dirty x e => .dirty x e
        | .clean x => .clean x
        | .filling x src => .filling x src
        | .invalid => .invalid),
      readers := (s.line l).readers + 1, cleanWanted := false,
      watchers := (s.line l).watchers.map fun w => { w with mark := .current } } ∧
    (∀ x, x ≠ l → t.line x = s.line x) ∧ t.writeBack.urgent = s.writeBack.urgent.filter (· != l) ∧
    t.writeBack.dirtyOrder = s.writeBack.dirtyOrder ∧ ∀ e, t.unclean e = s.unclean e) ∧
  (∀ (s : State) (st : Status) (b : Bop) (bs : List Bop), failQueued st [] s = s ∧
    (b.kind = .discard → failQueued st (b :: bs) s = failQueued st bs (s.completeBop b .ok)) ∧
    (b.kind ≠ .discard → failQueued st (b :: bs) s = failQueued st bs (s.completeBop b st))) ∧
  (∀ (s : State) (l : LineId) (st : Status) (x : Nat) (e now : Epoch), now = s.writeBack.currentEpoch →
    ((s.line l).state = .cleaning x e ∨ ∃ f, (s.line l).state = .redirty x e f) →
    (e = now → s.returnDirty l st = (s.setLineState l (.dirty x e)).joinDirty l) ∧
    (e ≠ now → s.returnDirty l st =
      ((((s.setLineState l (.dirty x now)).uncleanDown e).uncleanUp now).flushAllFailure st).joinDirty l)) ∧
  ∀ (s t : State) (l : LineId) (e : Epoch), (s.line l).state.epoch = some e → t = s.dropLine l →
    t.line l = { s.line l with state := .invalid, checkBad := false, pins := 0, cleanWanted := false, watchers := [] } ∧
    (∀ x, x ≠ l → t.line x = s.line x) ∧
    (t.cacheSet l.set).fence = { (s.cacheSet l.set).fence with
      salvageFailures := min ((s.cacheSet l.set).fence.salvageFailures + 1) 255 } ∧
    (t.cacheSet l.set).recency = (s.cacheSet l.set).recency ∧
    t.unclean e = s.unclean e - 1 ∧ t.unclean e.other = s.unclean e.other ∧
    t.writeBack.dirtyOrder = s.writeBack.dirtyOrder.filter (· != l) ∧
    t.writeBack.urgent = s.writeBack.urgent.filter (· != l) ∧
    t.writeBack.activeFlushAll = (s.oldEpochFailure e .fenced).writeBack.activeFlushAll ∧
    t.commands = (completeAll .fenced ((s.line l).watchers.map (·.bop)) s).commands ∧
    t.rings = (completeAll .fenced ((s.line l).watchers.map (·.bop)) s).rings ∧
    t.host = (completeAll .fenced ((s.line l).watchers.map (·.bop)) s).host

/-- R82, R99, R100: an ANNOUNCE brings the link UP with its capacity, after a link loss if it was UP already; an invalid one leaves it DOWN.
A loss takes an UP link DOWN and keeps the capacity. R99 in its steps: every slot is ended in ascending number, every line of the fill queue
fails in order, the active FLUSH ALL completes with OFFLINE or worse and the retag walk starts, the DIRTY lines of fenced sets are dropped, and
a LINK fault counts the slots that failed. Where the relookup passes of a step stand, and in which order, is the model's reading
(notes/assumptions/13.md); the order of the dropped lines, sets and ways ascending, is its choice (notes/assumptions/23.md). -/
def Obligations.AnnounceAndLinkLoss : Prop :=
  (∀ (s : State) (m : List Byte) (c : Nat), parseMessage m = .announce c →
    (s.media.link = .down → 1 ≤ c → c ≤ 2 ^ 36 →
      exec (.announce m) s = .next (State.settle { s with media := { s.media with link := .up, capacity := c } })) ∧
    (s.media.link = .down → ¬(1 ≤ c ∧ c ≤ 2 ^ 36) → exec (.announce m) s = .next s) ∧
    (s.media.link = .up → 1 ≤ c → c ≤ 2 ^ 36 →
      exec (.announce m) s = .next (State.settle { s.loseLink .reAnnounce with
        media := { (s.loseLink .reAnnounce).media with link := .up, capacity := c } })) ∧
    (s.media.link = .up → ¬(1 ≤ c ∧ c ≤ 2 ^ 36) → exec (.announce m) s = .next (s.loseLink .reAnnounce).settle)) ∧
  (∀ s : State, s.media.link = .up → exec .linkLoss s = .next (s.loseLink .lost).settle) ∧
  (∀ s : State, s.media.link = .down → exec .linkLoss s = .next s) ∧
  (∀ (s : State) (r : LinkLossReason), (s.loseLink r).media.link = .down ∧
    (s.loseLink r).media.capacity = s.media.capacity) ∧
  (∀ (s t : State) (r : LinkLossReason), t = s.loseLink r →
    (∀ i, t.slot i = none) ∧ t.media.fillQueue = [] ∧ t.writeBack.activeFlushAll = none ∧
    (∀ f, s.writeBack.activeFlushAll = some f → t.writeBack.walk = some { nextSet := 0, epoch := f.oldEpoch }) ∧
    (s.writeBack.activeFlushAll = none → t.writeBack.walk = s.writeBack.walk) ∧
    ∀ (a b : State × SlotLosses) (c d : State × List SetId) (e g : State),
      a = ({ s with media := { s.media with link := .down } }, { failed := 0, changed := [] }) →
      b = loseSlots (List.finRange 32) a → c = (passAll b.2.changed b.1, []) →
      d = loseFills c.1.media.fillQueue c → e = passAll d.2 d.1 →
      g = (match e.writeBack.activeFlushAll with
        | some f => e.cutFlushAll (if (f.worst.getD .ok).code < Status.offline.code then .offline else f.worst.getD .ok)
        | none => e) →
      t = (g.directory.sets.foldl (fun s x => s.dropDirty (Fin.ofNat 4096 x.1)) g).reportFault (.link r b.2.failed)) ∧
  (∀ (s : State) (i : SlotId) (is : List SlotId) (k : SlotLosses) (sets : List SetId) (S : SetId),
    loseSlots [] (s, k) = (s, k) ∧ loseSlots (i :: is) (s, k) = loseSlots is (s.loseSlot i k) ∧
    noteChange false S sets = sets ∧ (S ∈ sets → noteChange true S sets = sets) ∧
    (S ∉ sets → noteChange true S sets = sets ++ [S])) ∧
  (∀ (s : State) (i : SlotId) (k : SlotLosses), s.slot i = none → s.loseSlot i k = (s, k)) ∧
  (∀ (s : State) (i : SlotId) (k : SlotLosses) (m : MediaSlot) (l : LineId) (r f : State × Bool), s.slot i = some m →
    l = m.line →
    ((m.kind = .clean ∧ m.state = .drawing) → r = s.releaseRead l) →
    (¬(m.kind = .clean ∧ m.state = .drawing) → r = (s, false)) →
    (m.orphan = true →
      s.loseSlot i k = (r.1.setSlot i none, { k with changed := noteChange r.2 l.set k.changed })) ∧
    (m.orphan = false → (m.kind = .fill → f = (r.1.setSlot i none).failFill l .offline) →
      (m.kind = .clean → f = ((r.1.setSlot i none).failClean l .offline, true)) →
      s.loseSlot i k =
        (f.1, { failed := k.failed + 1, changed := noteChange (r.2 || f.2) l.set k.changed }))) ∧
  (∀ (s u : State) (l : LineId) (ls : List LineId) (sets : List SetId),
    u = { s with media := { s.media with fillQueue := s.media.fillQueue.filter (· != l) } } →
    loseFills [] (s, sets) = (s, sets) ∧
    (l ∉ s.media.fillQueue → loseFills (l :: ls) (s, sets) = loseFills ls (s, sets)) ∧
    (l ∈ s.media.fillQueue → loseFills (l :: ls) (s, sets) = loseFills ls
      ((u.failFill l .offline).1, noteChange (u.failFill l .offline).2 l.set sets))) ∧
  (∀ (s : State) (l : LineId) (st : Status),
    (s.isFenced l.set = true → s.failFill l st = (((s.enterInvalid l).serve l).1, true) ∧
      s.failClean l st = ((s.dropLine l).serve l).1) ∧
    (s.isFenced l.set = false →
      s.failClean l st = (((s.returnDirty l st).answerWatchers l st).serve l).1 ∧
      ∀ x src pre rest, (s.line l).state = .filling x src → (s.line l).accessQueue = pre ++ rest →
        (∀ b ∈ pre, b.kind ≠ .write) →
        (rest = [] → s.failFill l st = ((failQueued st pre (s.setAccessQueue l [])).enterInvalid l, true)) ∧
        (∀ b more, rest = b :: more → b.kind = .write → s.failFill l st =
          ((((failQueued st pre (s.setAccessQueue l rest)).setAccessQueue l more).setLineState l
            (.filling x .host)).startWrite l b, true)))) ∧
  ∀ (s : State) (S : SetId),
    (s.isFenced S = false → s.dropDirty S = s) ∧
    (s.isFenced S = true → s.dropDirty S = (List.finRange 8).foldl (fun s w =>
      if (s.line ⟨S, w⟩).state.isDirty then s.dropLine ⟨S, w⟩ else s) s)

/-- R79, R80: a visit of the retag walk to a set whose check codes are good moves the old epoch's labels of its lines to the current epoch,
changes no other set, moves as many from the old epoch's unclean count to the current one's, and goes on to the next set or ends the walk. In a
set that is not fenced and has a bad check code, it fences the set first. -/
def Obligations.RetagWalkVisitsASet : Prop :=
  (∀ (b : Nat) (e f old now : Epoch) (src : FillSource),
    (LineState.dirty b e).retag old now = .dirty b (if e = old then now else e) ∧
    (LineState.cleaning b e).retag old now = .cleaning b (if e = old then now else e) ∧
    (LineState.redirty b e f).retag old now = .redirty b (if e = old then now else e) (if f = old then now else f) ∧
    LineState.invalid.retag old now = .invalid ∧ (LineState.filling b src).retag old now = .filling b src ∧
    (LineState.clean b).retag old now = .clean b) ∧
  ∀ (s : State) (w : RetagWalk), s.writeBack.walk = some w →
    exec .retagWalkVisit s = .next (s.walkVisit w).settle ∧
    (w.nextSet ≠ 4095 →
      (s.walkVisit w).writeBack.walk = some { nextSet := w.nextSet + 1, epoch := w.epoch }) ∧
    (w.nextSet = 4095 → (s.walkVisit w).writeBack.walk = none) ∧
    ((s.isFenced w.nextSet = true ∨ (s.cacheSet w.nextSet).badWay = none) →
      (∀ v : WayId, (s.walkVisit w).line ⟨w.nextSet, v⟩ = { s.line ⟨w.nextSet, v⟩ with
        state := (s.line ⟨w.nextSet, v⟩).state.retag w.epoch s.writeBack.currentEpoch }) ∧
      (∀ S, S ≠ w.nextSet → (s.walkVisit w).cacheSet S = s.cacheSet S) ∧
      (∀ k, w.epoch ≠ s.writeBack.currentEpoch →
        k = ((List.finRange 8).countP fun v => (s.line ⟨w.nextSet, v⟩).state.epoch == some w.epoch) →
        (s.walkVisit w).unclean w.epoch = s.unclean w.epoch - k ∧
        (s.walkVisit w).unclean s.writeBack.currentEpoch = s.unclean s.writeBack.currentEpoch + k)) ∧
    (∀ v, s.isFenced w.nextSet = false → (s.cacheSet w.nextSet).badWay = some v →
      s.walkVisit w = (s.fenceSet w.nextSet v).walkVisit w)

/-! ### Records written to host memory -/

/-- R118, R154, R164: an accepted write of a notice, snapshot or geometry record posts OK; a refused one reports a HOST_BUS fault and posts
HOST_BUS_ERROR, a notice being merged back into its class first. -/
def Obligations.RecordWritesEnd : Prop :=
  ∀ (s : State) (c : CtxId) (cmd : Command), s.command c = some cmd → cmd.state = .executing →
    (commandOf cmd.sr cmd.record = some .readSet →
      exec (.snapshotWriteSucceeds c) s = .next (s.finish c .ok 0).settleHost ∧
      exec (.snapshotWriteFails c) s = .next ((s.reportFault (.hostBus (Rec.bufferAddress cmd.record) .snapshot 0
        (Rec.commandId cmd.record))).finish c .hostBusError 0).settleHost) ∧
    (commandOf cmd.sr cmd.record = some .reportGeometry →
      exec (.geometryWriteSucceeds c) s = .next (s.finish c .ok 0).settleHost ∧
      exec (.geometryWriteFails c) s = .next ((s.reportFault (.hostBus (Rec.bufferAddress cmd.record) .geometry 0
        (Rec.commandId cmd.record))).finish c .hostBusError 0).settleHost) ∧
    (∀ n : Notice, commandOf cmd.sr cmd.record = some .awaitNotice → cmd.notice = some n →
      exec (.noticeWriteSucceeds c) s = .next (s.finish c .ok n.faultClass.val).settleHost ∧
      exec (.noticeWriteFails c) s = .next (State.settleHost (State.finish (State.reportFault
        (s.setEntry n.faultClass
          { count := min (n.count + s.faults.entries[n.faultClass].count) 65535, first := n.first,
            unreported := true })
        (.hostBus (Rec.bufferAddress cmd.record) .notice 0 (Rec.commandId cmd.record))) c .hostBusError
          n.faultClass.val)))
end

