-- ==== Sys2Proof/Laws/State.lean ====
section
/-! SUPPORT. One lemma per field per update of the state, and what a part reads as after an update of it or of another part. -/

namespace Sys2Proof.Machine.State

variable (s : State)

@[simp] theorem setCacheSet_writeBack (S : SetId) (cs : CacheSet) : (s.setCacheSet S cs).writeBack = s.writeBack := rfl
@[simp] theorem setCacheSet_media (S : SetId) (cs : CacheSet) : (s.setCacheSet S cs).media = s.media := rfl
@[simp] theorem setCacheSet_faults (S : SetId) (cs : CacheSet) : (s.setCacheSet S cs).faults = s.faults := rfl
@[simp] theorem setCacheSet_commands (S : SetId) (cs : CacheSet) : (s.setCacheSet S cs).commands = s.commands := rfl
@[simp] theorem setCacheSet_rings (S : SetId) (cs : CacheSet) : (s.setCacheSet S cs).rings = s.rings := rfl
@[simp] theorem setCacheSet_host (S : SetId) (cs : CacheSet) : (s.setCacheSet S cs).host = s.host := rfl
@[simp] theorem setCacheSet_engine (S : SetId) (cs : CacheSet) : (s.setCacheSet S cs).engine = s.engine := rfl
@[simp] theorem setCacheSet_frames (S : SetId) (cs : CacheSet) : (s.setCacheSet S cs).frames = s.frames := rfl
@[simp] theorem setCacheSet_pending (S : SetId) (cs : CacheSet) : (s.setCacheSet S cs).pending = s.pending := rfl

@[simp] theorem setLine_writeBack (l : LineId) (ln : Line) : (s.setLine l ln).writeBack = s.writeBack := rfl
@[simp] theorem setLine_media (l : LineId) (ln : Line) : (s.setLine l ln).media = s.media := rfl
@[simp] theorem setLine_faults (l : LineId) (ln : Line) : (s.setLine l ln).faults = s.faults := rfl
@[simp] theorem setLine_commands (l : LineId) (ln : Line) : (s.setLine l ln).commands = s.commands := rfl
@[simp] theorem setLine_rings (l : LineId) (ln : Line) : (s.setLine l ln).rings = s.rings := rfl
@[simp] theorem setLine_host (l : LineId) (ln : Line) : (s.setLine l ln).host = s.host := rfl
@[simp] theorem setLine_engine (l : LineId) (ln : Line) : (s.setLine l ln).engine = s.engine := rfl
@[simp] theorem setLine_frames (l : LineId) (ln : Line) : (s.setLine l ln).frames = s.frames := rfl
@[simp] theorem setLine_pending (l : LineId) (ln : Line) : (s.setLine l ln).pending = s.pending := rfl

@[simp] theorem setLineState_writeBack (l : LineId) (st : LineState) : (s.setLineState l st).writeBack = s.writeBack := rfl
@[simp] theorem setLineState_media (l : LineId) (st : LineState) : (s.setLineState l st).media = s.media := rfl
@[simp] theorem setLineState_faults (l : LineId) (st : LineState) : (s.setLineState l st).faults = s.faults := rfl
@[simp] theorem setLineState_commands (l : LineId) (st : LineState) : (s.setLineState l st).commands = s.commands := rfl
@[simp] theorem setLineState_rings (l : LineId) (st : LineState) : (s.setLineState l st).rings = s.rings := rfl
@[simp] theorem setLineState_host (l : LineId) (st : LineState) : (s.setLineState l st).host = s.host := rfl
@[simp] theorem setLineState_engine (l : LineId) (st : LineState) : (s.setLineState l st).engine = s.engine := rfl
@[simp] theorem setLineState_frames (l : LineId) (st : LineState) : (s.setLineState l st).frames = s.frames := rfl
@[simp] theorem setLineState_pending (l : LineId) (st : LineState) : (s.setLineState l st).pending = s.pending := rfl

@[simp] theorem setAccessQueue_writeBack (l : LineId) (q : List Bop) : (s.setAccessQueue l q).writeBack = s.writeBack := rfl
@[simp] theorem setAccessQueue_media (l : LineId) (q : List Bop) : (s.setAccessQueue l q).media = s.media := rfl
@[simp] theorem setAccessQueue_faults (l : LineId) (q : List Bop) : (s.setAccessQueue l q).faults = s.faults := rfl
@[simp] theorem setAccessQueue_commands (l : LineId) (q : List Bop) : (s.setAccessQueue l q).commands = s.commands := rfl
@[simp] theorem setAccessQueue_rings (l : LineId) (q : List Bop) : (s.setAccessQueue l q).rings = s.rings := rfl
@[simp] theorem setAccessQueue_host (l : LineId) (q : List Bop) : (s.setAccessQueue l q).host = s.host := rfl
@[simp] theorem setAccessQueue_engine (l : LineId) (q : List Bop) : (s.setAccessQueue l q).engine = s.engine := rfl
@[simp] theorem setAccessQueue_frames (l : LineId) (q : List Bop) : (s.setAccessQueue l q).frames = s.frames := rfl
@[simp] theorem setAccessQueue_pending (l : LineId) (q : List Bop) : (s.setAccessQueue l q).pending = s.pending := rfl

@[simp] theorem setWatchers_writeBack (l : LineId) (w : List Watcher) : (s.setWatchers l w).writeBack = s.writeBack := rfl
@[simp] theorem setWatchers_media (l : LineId) (w : List Watcher) : (s.setWatchers l w).media = s.media := rfl
@[simp] theorem setWatchers_faults (l : LineId) (w : List Watcher) : (s.setWatchers l w).faults = s.faults := rfl
@[simp] theorem setWatchers_commands (l : LineId) (w : List Watcher) : (s.setWatchers l w).commands = s.commands := rfl
@[simp] theorem setWatchers_rings (l : LineId) (w : List Watcher) : (s.setWatchers l w).rings = s.rings := rfl
@[simp] theorem setWatchers_host (l : LineId) (w : List Watcher) : (s.setWatchers l w).host = s.host := rfl
@[simp] theorem setWatchers_engine (l : LineId) (w : List Watcher) : (s.setWatchers l w).engine = s.engine := rfl
@[simp] theorem setWatchers_frames (l : LineId) (w : List Watcher) : (s.setWatchers l w).frames = s.frames := rfl
@[simp] theorem setWatchers_pending (l : LineId) (w : List Watcher) : (s.setWatchers l w).pending = s.pending := rfl

@[simp] theorem enterInvalid_writeBack (l : LineId) : (s.enterInvalid l).writeBack = s.writeBack := rfl
@[simp] theorem enterInvalid_media (l : LineId) : (s.enterInvalid l).media = s.media := rfl
@[simp] theorem enterInvalid_faults (l : LineId) : (s.enterInvalid l).faults = s.faults := rfl
@[simp] theorem enterInvalid_commands (l : LineId) : (s.enterInvalid l).commands = s.commands := rfl
@[simp] theorem enterInvalid_rings (l : LineId) : (s.enterInvalid l).rings = s.rings := rfl
@[simp] theorem enterInvalid_host (l : LineId) : (s.enterInvalid l).host = s.host := rfl
@[simp] theorem enterInvalid_engine (l : LineId) : (s.enterInvalid l).engine = s.engine := rfl
@[simp] theorem enterInvalid_frames (l : LineId) : (s.enterInvalid l).frames = s.frames := rfl
@[simp] theorem enterInvalid_pending (l : LineId) : (s.enterInvalid l).pending = s.pending := rfl

@[simp] theorem touchWay_writeBack (l : LineId) : (s.touchWay l).writeBack = s.writeBack := rfl
@[simp] theorem touchWay_media (l : LineId) : (s.touchWay l).media = s.media := rfl
@[simp] theorem touchWay_faults (l : LineId) : (s.touchWay l).faults = s.faults := rfl
@[simp] theorem touchWay_commands (l : LineId) : (s.touchWay l).commands = s.commands := rfl
@[simp] theorem touchWay_rings (l : LineId) : (s.touchWay l).rings = s.rings := rfl
@[simp] theorem touchWay_host (l : LineId) : (s.touchWay l).host = s.host := rfl
@[simp] theorem touchWay_engine (l : LineId) : (s.touchWay l).engine = s.engine := rfl
@[simp] theorem touchWay_frames (l : LineId) : (s.touchWay l).frames = s.frames := rfl
@[simp] theorem touchWay_pending (l : LineId) : (s.touchWay l).pending = s.pending := rfl

@[simp] theorem setWaitList_writeBack (S : SetId) (q : List Bop) : (s.setWaitList S q).writeBack = s.writeBack := rfl
@[simp] theorem setWaitList_media (S : SetId) (q : List Bop) : (s.setWaitList S q).media = s.media := rfl
@[simp] theorem setWaitList_faults (S : SetId) (q : List Bop) : (s.setWaitList S q).faults = s.faults := rfl
@[simp] theorem setWaitList_commands (S : SetId) (q : List Bop) : (s.setWaitList S q).commands = s.commands := rfl
@[simp] theorem setWaitList_rings (S : SetId) (q : List Bop) : (s.setWaitList S q).rings = s.rings := rfl
@[simp] theorem setWaitList_host (S : SetId) (q : List Bop) : (s.setWaitList S q).host = s.host := rfl
@[simp] theorem setWaitList_engine (S : SetId) (q : List Bop) : (s.setWaitList S q).engine = s.engine := rfl
@[simp] theorem setWaitList_frames (S : SetId) (q : List Bop) : (s.setWaitList S q).frames = s.frames := rfl
@[simp] theorem setWaitList_pending (S : SetId) (q : List Bop) : (s.setWaitList S q).pending = s.pending := rfl

@[simp] theorem setFence_writeBack (S : SetId) (f : FenceRecord) : (s.setFence S f).writeBack = s.writeBack := rfl
@[simp] theorem setFence_media (S : SetId) (f : FenceRecord) : (s.setFence S f).media = s.media := rfl
@[simp] theorem setFence_faults (S : SetId) (f : FenceRecord) : (s.setFence S f).faults = s.faults := rfl
@[simp] theorem setFence_commands (S : SetId) (f : FenceRecord) : (s.setFence S f).commands = s.commands := rfl
@[simp] theorem setFence_rings (S : SetId) (f : FenceRecord) : (s.setFence S f).rings = s.rings := rfl
@[simp] theorem setFence_host (S : SetId) (f : FenceRecord) : (s.setFence S f).host = s.host := rfl
@[simp] theorem setFence_engine (S : SetId) (f : FenceRecord) : (s.setFence S f).engine = s.engine := rfl
@[simp] theorem setFence_frames (S : SetId) (f : FenceRecord) : (s.setFence S f).frames = s.frames := rfl
@[simp] theorem setFence_pending (S : SetId) (f : FenceRecord) : (s.setFence S f).pending = s.pending := rfl

@[simp] theorem setCtx_directory (c : CtxId) (x : Context) : (s.setCtx c x).directory = s.directory := rfl
@[simp] theorem setCtx_writeBack (c : CtxId) (x : Context) : (s.setCtx c x).writeBack = s.writeBack := rfl
@[simp] theorem setCtx_media (c : CtxId) (x : Context) : (s.setCtx c x).media = s.media := rfl
@[simp] theorem setCtx_faults (c : CtxId) (x : Context) : (s.setCtx c x).faults = s.faults := rfl
@[simp] theorem setCtx_rings (c : CtxId) (x : Context) : (s.setCtx c x).rings = s.rings := rfl
@[simp] theorem setCtx_host (c : CtxId) (x : Context) : (s.setCtx c x).host = s.host := rfl
@[simp] theorem setCtx_engine (c : CtxId) (x : Context) : (s.setCtx c x).engine = s.engine := rfl
@[simp] theorem setCtx_frames (c : CtxId) (x : Context) : (s.setCtx c x).frames = s.frames := rfl
@[simp] theorem setCtx_pending (c : CtxId) (x : Context) : (s.setCtx c x).pending = s.pending := rfl

@[simp] theorem setSr_directory (n : RingId) (x : Option SubmissionRing) : (s.setSr n x).directory = s.directory := rfl
@[simp] theorem setSr_writeBack (n : RingId) (x : Option SubmissionRing) : (s.setSr n x).writeBack = s.writeBack := rfl
@[simp] theorem setSr_media (n : RingId) (x : Option SubmissionRing) : (s.setSr n x).media = s.media := rfl
@[simp] theorem setSr_faults (n : RingId) (x : Option SubmissionRing) : (s.setSr n x).faults = s.faults := rfl
@[simp] theorem setSr_commands (n : RingId) (x : Option SubmissionRing) : (s.setSr n x).commands = s.commands := rfl
@[simp] theorem setSr_host (n : RingId) (x : Option SubmissionRing) : (s.setSr n x).host = s.host := rfl
@[simp] theorem setSr_engine (n : RingId) (x : Option SubmissionRing) : (s.setSr n x).engine = s.engine := rfl
@[simp] theorem setSr_frames (n : RingId) (x : Option SubmissionRing) : (s.setSr n x).frames = s.frames := rfl
@[simp] theorem setSr_pending (n : RingId) (x : Option SubmissionRing) : (s.setSr n x).pending = s.pending := rfl

@[simp] theorem setCr_directory (n : RingId) (x : Option CompletionRing) : (s.setCr n x).directory = s.directory := rfl
@[simp] theorem setCr_writeBack (n : RingId) (x : Option CompletionRing) : (s.setCr n x).writeBack = s.writeBack := rfl
@[simp] theorem setCr_media (n : RingId) (x : Option CompletionRing) : (s.setCr n x).media = s.media := rfl
@[simp] theorem setCr_faults (n : RingId) (x : Option CompletionRing) : (s.setCr n x).faults = s.faults := rfl
@[simp] theorem setCr_commands (n : RingId) (x : Option CompletionRing) : (s.setCr n x).commands = s.commands := rfl
@[simp] theorem setCr_host (n : RingId) (x : Option CompletionRing) : (s.setCr n x).host = s.host := rfl
@[simp] theorem setCr_engine (n : RingId) (x : Option CompletionRing) : (s.setCr n x).engine = s.engine := rfl
@[simp] theorem setCr_frames (n : RingId) (x : Option CompletionRing) : (s.setCr n x).frames = s.frames := rfl
@[simp] theorem setCr_pending (n : RingId) (x : Option CompletionRing) : (s.setCr n x).pending = s.pending := rfl

@[simp] theorem setSlot_directory (i : SlotId) (x : Option MediaSlot) : (s.setSlot i x).directory = s.directory := rfl
@[simp] theorem setSlot_writeBack (i : SlotId) (x : Option MediaSlot) : (s.setSlot i x).writeBack = s.writeBack := rfl
@[simp] theorem setSlot_faults (i : SlotId) (x : Option MediaSlot) : (s.setSlot i x).faults = s.faults := rfl
@[simp] theorem setSlot_commands (i : SlotId) (x : Option MediaSlot) : (s.setSlot i x).commands = s.commands := rfl
@[simp] theorem setSlot_rings (i : SlotId) (x : Option MediaSlot) : (s.setSlot i x).rings = s.rings := rfl
@[simp] theorem setSlot_host (i : SlotId) (x : Option MediaSlot) : (s.setSlot i x).host = s.host := rfl
@[simp] theorem setSlot_engine (i : SlotId) (x : Option MediaSlot) : (s.setSlot i x).engine = s.engine := rfl
@[simp] theorem setSlot_frames (i : SlotId) (x : Option MediaSlot) : (s.setSlot i x).frames = s.frames := rfl
@[simp] theorem setSlot_pending (i : SlotId) (x : Option MediaSlot) : (s.setSlot i x).pending = s.pending := rfl

@[simp] theorem setChannel_directory (i : ChannelId) (x : Option Transfer) : (s.setChannel i x).directory = s.directory := rfl
@[simp] theorem setChannel_writeBack (i : ChannelId) (x : Option Transfer) : (s.setChannel i x).writeBack = s.writeBack := rfl
@[simp] theorem setChannel_media (i : ChannelId) (x : Option Transfer) : (s.setChannel i x).media = s.media := rfl
@[simp] theorem setChannel_faults (i : ChannelId) (x : Option Transfer) : (s.setChannel i x).faults = s.faults := rfl
@[simp] theorem setChannel_commands (i : ChannelId) (x : Option Transfer) : (s.setChannel i x).commands = s.commands := rfl
@[simp] theorem setChannel_rings (i : ChannelId) (x : Option Transfer) : (s.setChannel i x).rings = s.rings := rfl
@[simp] theorem setChannel_engine (i : ChannelId) (x : Option Transfer) : (s.setChannel i x).engine = s.engine := rfl
@[simp] theorem setChannel_frames (i : ChannelId) (x : Option Transfer) : (s.setChannel i x).frames = s.frames := rfl
@[simp] theorem setChannel_pending (i : ChannelId) (x : Option Transfer) : (s.setChannel i x).pending = s.pending := rfl

@[simp] theorem hostWrite_directory (w : HostWrite) : (s.hostWrite w).directory = s.directory := rfl
@[simp] theorem hostWrite_writeBack (w : HostWrite) : (s.hostWrite w).writeBack = s.writeBack := rfl
@[simp] theorem hostWrite_media (w : HostWrite) : (s.hostWrite w).media = s.media := rfl
@[simp] theorem hostWrite_faults (w : HostWrite) : (s.hostWrite w).faults = s.faults := rfl
@[simp] theorem hostWrite_commands (w : HostWrite) : (s.hostWrite w).commands = s.commands := rfl
@[simp] theorem hostWrite_rings (w : HostWrite) : (s.hostWrite w).rings = s.rings := rfl
@[simp] theorem hostWrite_engine (w : HostWrite) : (s.hostWrite w).engine = s.engine := rfl
@[simp] theorem hostWrite_frames (w : HostWrite) : (s.hostWrite w).frames = s.frames := rfl
@[simp] theorem hostWrite_pending (w : HostWrite) : (s.hostWrite w).pending = s.pending := rfl

@[simp] theorem hostRead_directory (r : HostRead) : (s.hostRead r).directory = s.directory := rfl
@[simp] theorem hostRead_writeBack (r : HostRead) : (s.hostRead r).writeBack = s.writeBack := rfl
@[simp] theorem hostRead_media (r : HostRead) : (s.hostRead r).media = s.media := rfl
@[simp] theorem hostRead_faults (r : HostRead) : (s.hostRead r).faults = s.faults := rfl
@[simp] theorem hostRead_commands (r : HostRead) : (s.hostRead r).commands = s.commands := rfl
@[simp] theorem hostRead_rings (r : HostRead) : (s.hostRead r).rings = s.rings := rfl
@[simp] theorem hostRead_engine (r : HostRead) : (s.hostRead r).engine = s.engine := rfl
@[simp] theorem hostRead_frames (r : HostRead) : (s.hostRead r).frames = s.frames := rfl
@[simp] theorem hostRead_pending (r : HostRead) : (s.hostRead r).pending = s.pending := rfl

@[simp] theorem mediaSend_directory (r : MediaRequest) : (s.mediaSend r).directory = s.directory := rfl
@[simp] theorem mediaSend_writeBack (r : MediaRequest) : (s.mediaSend r).writeBack = s.writeBack := rfl
@[simp] theorem mediaSend_faults (r : MediaRequest) : (s.mediaSend r).faults = s.faults := rfl
@[simp] theorem mediaSend_commands (r : MediaRequest) : (s.mediaSend r).commands = s.commands := rfl
@[simp] theorem mediaSend_rings (r : MediaRequest) : (s.mediaSend r).rings = s.rings := rfl
@[simp] theorem mediaSend_host (r : MediaRequest) : (s.mediaSend r).host = s.host := rfl
@[simp] theorem mediaSend_engine (r : MediaRequest) : (s.mediaSend r).engine = s.engine := rfl
@[simp] theorem mediaSend_frames (r : MediaRequest) : (s.mediaSend r).frames = s.frames := rfl
@[simp] theorem mediaSend_pending (r : MediaRequest) : (s.mediaSend r).pending = s.pending := rfl

@[simp] theorem setFrame_directory (l : LineId) (d : List Byte) : (s.setFrame l d).directory = s.directory := rfl
@[simp] theorem setFrame_writeBack (l : LineId) (d : List Byte) : (s.setFrame l d).writeBack = s.writeBack := rfl
@[simp] theorem setFrame_media (l : LineId) (d : List Byte) : (s.setFrame l d).media = s.media := rfl
@[simp] theorem setFrame_faults (l : LineId) (d : List Byte) : (s.setFrame l d).faults = s.faults := rfl
@[simp] theorem setFrame_commands (l : LineId) (d : List Byte) : (s.setFrame l d).commands = s.commands := rfl
@[simp] theorem setFrame_rings (l : LineId) (d : List Byte) : (s.setFrame l d).rings = s.rings := rfl
@[simp] theorem setFrame_host (l : LineId) (d : List Byte) : (s.setFrame l d).host = s.host := rfl
@[simp] theorem setFrame_engine (l : LineId) (d : List Byte) : (s.setFrame l d).engine = s.engine := rfl
@[simp] theorem setFrame_pending (l : LineId) (d : List Byte) : (s.setFrame l d).pending = s.pending := rfl

@[simp] theorem setEntry_directory (k : Fin 5) (e : CaptureEntry) : (s.setEntry k e).directory = s.directory := rfl
@[simp] theorem setEntry_writeBack (k : Fin 5) (e : CaptureEntry) : (s.setEntry k e).writeBack = s.writeBack := rfl
@[simp] theorem setEntry_media (k : Fin 5) (e : CaptureEntry) : (s.setEntry k e).media = s.media := rfl
@[simp] theorem setEntry_commands (k : Fin 5) (e : CaptureEntry) : (s.setEntry k e).commands = s.commands := rfl
@[simp] theorem setEntry_rings (k : Fin 5) (e : CaptureEntry) : (s.setEntry k e).rings = s.rings := rfl
@[simp] theorem setEntry_host (k : Fin 5) (e : CaptureEntry) : (s.setEntry k e).host = s.host := rfl
@[simp] theorem setEntry_engine (k : Fin 5) (e : CaptureEntry) : (s.setEntry k e).engine = s.engine := rfl
@[simp] theorem setEntry_frames (k : Fin 5) (e : CaptureEntry) : (s.setEntry k e).frames = s.frames := rfl
@[simp] theorem setEntry_pending (k : Fin 5) (e : CaptureEntry) : (s.setEntry k e).pending = s.pending := rfl

@[simp] theorem judgePressure_directory : (s.judgePressure).directory = s.directory := rfl
@[simp] theorem judgePressure_media : (s.judgePressure).media = s.media := rfl
@[simp] theorem judgePressure_faults : (s.judgePressure).faults = s.faults := rfl
@[simp] theorem judgePressure_commands : (s.judgePressure).commands = s.commands := rfl
@[simp] theorem judgePressure_rings : (s.judgePressure).rings = s.rings := rfl
@[simp] theorem judgePressure_host : (s.judgePressure).host = s.host := rfl
@[simp] theorem judgePressure_engine : (s.judgePressure).engine = s.engine := rfl
@[simp] theorem judgePressure_frames : (s.judgePressure).frames = s.frames := rfl
@[simp] theorem judgePressure_pending : (s.judgePressure).pending = s.pending := rfl

theorem setUnclean_frame (e : Epoch) (n : Nat) :
    (s.setUnclean e n).directory = s.directory ∧ (s.setUnclean e n).media = s.media ∧
      (s.setUnclean e n).faults = s.faults ∧ (s.setUnclean e n).commands = s.commands ∧
      (s.setUnclean e n).rings = s.rings ∧ (s.setUnclean e n).host = s.host ∧
      (s.setUnclean e n).engine = s.engine ∧ (s.setUnclean e n).frames = s.frames ∧
      (s.setUnclean e n).pending = s.pending := by
  cases e <;> exact ⟨rfl, rfl, rfl, rfl, rfl, rfl, rfl, rfl, rfl⟩

@[simp] theorem ctx_setCtx_self (i : CtxId) (x : Context) : (s.setCtx i x).ctx i = x := by
  simp [ctx, setCtx]

theorem ctx_setCtx_ne (i j : CtxId) (x : Context) (h : i ≠ j) : (s.setCtx i x).ctx j = s.ctx j := by
  have h' : i.val ≠ j.val := fun e => h (Fin.ext e)
  simp [ctx, setCtx, h']

@[simp] theorem sr_setSr_self (i : RingId) (x : Option SubmissionRing) : (s.setSr i x).sr i = x := by
  simp [sr, setSr]

theorem sr_setSr_ne (i j : RingId) (x : Option SubmissionRing) (h : i ≠ j) : (s.setSr i x).sr j = s.sr j := by
  have h' : i.val ≠ j.val := fun e => h (Fin.ext e)
  simp [sr, setSr, h']

@[simp] theorem cr_setCr_self (i : RingId) (x : Option CompletionRing) : (s.setCr i x).cr i = x := by
  simp [cr, setCr]

theorem cr_setCr_ne (i j : RingId) (x : Option CompletionRing) (h : i ≠ j) : (s.setCr i x).cr j = s.cr j := by
  have h' : i.val ≠ j.val := fun e => h (Fin.ext e)
  simp [cr, setCr, h']

@[simp] theorem slot_setSlot_self (i : SlotId) (x : Option MediaSlot) : (s.setSlot i x).slot i = x := by
  simp [slot, setSlot]

theorem slot_setSlot_ne (i j : SlotId) (x : Option MediaSlot) (h : i ≠ j) : (s.setSlot i x).slot j = s.slot j := by
  have h' : i.val ≠ j.val := fun e => h (Fin.ext e)
  simp [slot, setSlot, h']

@[simp] theorem channel_setChannel_self (i : ChannelId) (x : Option Transfer) : (s.setChannel i x).channel i = x := by
  simp [channel, setChannel]

theorem channel_setChannel_ne (i j : ChannelId) (x : Option Transfer) (h : i ≠ j) : (s.setChannel i x).channel j = s.channel j := by
  have h' : i.val ≠ j.val := fun e => h (Fin.ext e)
  simp [channel, setChannel, h']

@[simp] theorem sr_setCr (i : RingId) (x : Option CompletionRing) (j : RingId) : (s.setCr i x).sr j = s.sr j := rfl

@[simp] theorem cr_setSr (i : RingId) (x : Option SubmissionRing) (j : RingId) : (s.setSr i x).cr j = s.cr j := rfl

@[simp] theorem command_setCtx_self (c : CtxId) (m : Command) : (s.setCtx c (.holding m)).command c = some m := by
  simp [command]

theorem command_setCtx_ne (c d : CtxId) (x : Context) (h : c ≠ d) : (s.setCtx c x).command d = s.command d := by
  simp [command, ctx_setCtx_ne _ _ _ _ h]

end Sys2Proof.Machine.State
end

