-- ==== Sys2Proof/Laws/Arrival.lean ====
section
/-! SUPPORT. What an arrival is: the command that passes intake is dispatched, the one that does not posts its status; and what the
taking of an arrival leaves as it was. -/

namespace Sys2Proof.Machine

theorem command_eq_some {s : State} {c : CtxId} {cmd : Command} : s.command c = some cmd ↔ s.ctx c = .holding cmd := by
  unfold State.command
  split <;> simp_all

/-- An arrival of a record that holds the command: dispatched if it passes, and otherwise its first failing check posts. -/
theorem State.arrive_eq {s : State} {k : CommandKind} {a : Arrival} (dispatch : State → CtxId → Record → State)
    (finish : State → State) (h : s.arrival = some a) (hc : commandOf a.sr a.record = some k) :
    s.arrive k dispatch finish =
      if s.intakeStatus k a.ctx a.sr a.record = .ok then finish (dispatch (s.takeArrival a) a.ctx a.record)
      else ((s.takeArrival a).finish a.ctx (s.intakeStatus k a.ctx a.sr a.record) 0).settleHost := by
  unfold State.arrive
  rw [h]
  dsimp only
  rw [if_pos hc]

/-- The context of the record that arrives is FETCHING. -/
theorem State.arrival_ctx {s : State} {a : Arrival} (h : s.arrival = some a) : s.ctx a.ctx = .fetching a.sr a.reserved := by
  unfold State.arrival at h
  split at h
  · cases h
  · split at h
    · next hc =>
      cases h
      exact hc
    all_goals cases h

variable (s : State) (a : Arrival)

@[simp] theorem State.takeArrival_command :
    (s.takeArrival a).command a.ctx = some (arrivedCommand a.sr a.reserved a.record) := by
  simp [State.takeArrival, State.command, State.ctx, State.setCtx]

theorem State.takeArrival_ctx {d : CtxId} (h : d ≠ a.ctx) : (s.takeArrival a).ctx d = s.ctx d := by
  have : a.ctx.val ≠ d.val := fun e => h (Fin.ext e.symm)
  simp [State.takeArrival, State.ctx, State.setCtx, this]

@[simp] theorem State.takeArrival_sr (n : RingId) : (s.takeArrival a).sr n = s.sr n := rfl
@[simp] theorem State.takeArrival_cr (n : RingId) : (s.takeArrival a).cr n = s.cr n := rfl
@[simp] theorem State.takeArrival_line (l : LineId) : (s.takeArrival a).line l = s.line l := rfl
@[simp] theorem State.takeArrival_writeBack : (s.takeArrival a).writeBack = s.writeBack := rfl
@[simp] theorem State.takeArrival_media : (s.takeArrival a).media = s.media := rfl
@[simp] theorem State.takeArrival_faults : (s.takeArrival a).faults = s.faults := rfl
@[simp] theorem State.takeArrival_host : (s.takeArrival a).host = s.host := rfl
@[simp] theorem State.takeArrival_engine : (s.takeArrival a).engine = s.engine := rfl
@[simp] theorem State.takeArrival_frames : (s.takeArrival a).frames = s.frames := rfl
@[simp] theorem State.takeArrival_pending : (s.takeArrival a).pending = s.pending := rfl

/-- The context was in flight for its ring before and is after. -/
theorem State.takeArrival_srInFlight {s : State} {a : Arrival} (h : s.arrival = some a) (n : RingId) :
    (s.takeArrival a).srInFlight n = s.srInFlight n := by
  have hc := State.arrival_ctx h
  have key (d : CtxId) : ((s.takeArrival a).ctx d).sr = (s.ctx d).sr := by
    by_cases hd : d = a.ctx
    · subst hd
      rw [hc]
      simp [State.takeArrival, State.ctx, State.setCtx, Context.sr, arrivedCommand]
    · rw [State.takeArrival_ctx _ _ hd]
  unfold State.srInFlight
  rw [Bool.eq_iff_iff]
  simp only [List.any_eq_true, Vector.mem_toList_iff, Vector.mem_iff_getElem]
  have step (i : Nat) (hi : i < 128) : (s.takeArrival a).commands.contexts[i].sr = s.commands.contexts[i].sr := key ⟨i, hi⟩
  constructor
  · rintro ⟨x, ⟨i, hi, rfl⟩, hx⟩
    exact ⟨_, ⟨i, hi, rfl⟩, by rw [← step i hi]; exact hx⟩
  · rintro ⟨x, ⟨i, hi, rfl⟩, hx⟩
    exact ⟨_, ⟨i, hi, rfl⟩, by rw [step i hi]; exact hx⟩

/-! ### Posting -/

/-- A context that holds a command keeps its ring in flight. -/
theorem State.srInFlight_of_command {s : State} {c : CtxId} {cmd : Command} (h : s.command c = some cmd) :
    s.srInFlight cmd.sr = true := by
  rw [command_eq_some] at h
  simp only [State.srInFlight, List.any_eq_true]
  refine ⟨s.ctx c, ?_, ?_⟩
  · simp [State.ctx]
  · rw [h]
    simp [Context.sr]

/-- A delete waits while a context of its ring is in flight. -/
theorem State.judgeDelete_of_inFlight {s : State} {n : RingId} (h : s.srInFlight n = true) : s.judgeDelete n = s := by
  unfold State.judgeDelete
  split
  · split
    · simp [h]
    · rfl
    · rfl
  · rfl

end Sys2Proof.Machine
end

