-- ==== Sys2Proof/Laws/Posting.lean ====
section
/-! SUPPORT. Posting, splitting and the completion of block operations reach no further than the contexts, the rings and the outbound
stream: the cache machinery, the capture table, the engine, the frame store and the commands that wait stay as they were. -/

namespace Sys2Proof.Machine

/-- Everything but the Command Unit, the Ring Unit and the Host Port is the same in both. -/
structure State.SameCore (s t : State) : Prop where
  directory : t.directory = s.directory
  writeBack : t.writeBack = s.writeBack
  media : t.media = s.media
  faults : t.faults = s.faults
  engine : t.engine = s.engine
  frames : t.frames = s.frames
  pending : t.pending = s.pending

namespace State.SameCore

variable {s t u : State}

theorem refl (s : State) : s.SameCore s := ⟨rfl, rfl, rfl, rfl, rfl, rfl, rfl⟩

theorem trans (h : s.SameCore t) (g : t.SameCore u) : s.SameCore u :=
  ⟨g.1.trans h.1, g.2.trans h.2, g.3.trans h.3, g.4.trans h.4, g.5.trans h.5, g.6.trans h.6, g.7.trans h.7⟩

theorem line (h : s.SameCore t) (l : LineId) : t.line l = s.line l := by
  simp only [State.line, State.cacheSet, h.directory]

theorem cacheSet (h : s.SameCore t) (S : SetId) : t.cacheSet S = s.cacheSet S := by
  simp only [State.cacheSet, h.directory]

theorem setCtx (s : State) (c : CtxId) (x : Context) : s.SameCore (s.setCtx c x) := ⟨rfl, rfl, rfl, rfl, rfl, rfl, rfl⟩

theorem setSr (s : State) (n : RingId) (x : Option SubmissionRing) : s.SameCore (s.setSr n x) :=
  ⟨rfl, rfl, rfl, rfl, rfl, rfl, rfl⟩

theorem setCr (s : State) (n : RingId) (x : Option CompletionRing) : s.SameCore (s.setCr n x) :=
  ⟨rfl, rfl, rfl, rfl, rfl, rfl, rfl⟩

theorem hostWrite (s : State) (w : HostWrite) : s.SameCore (s.hostWrite w) := ⟨rfl, rfl, rfl, rfl, rfl, rfl, rfl⟩

theorem commands (s : State) (x : CommandUnit) : s.SameCore { s with commands := x } :=
  ⟨rfl, rfl, rfl, rfl, rfl, rfl, rfl⟩

theorem issueRecord (s : State) (n : RingId) : s.SameCore (s.issueRecord n) := by
  unfold State.issueRecord
  split
  · split
    · split
      · exact (setCr s n _).trans (hostWrite _ _)
      · exact setCr s n _
    · exact refl s
    · exact refl s
  · exact refl s

theorem dropCompletion (s : State) (c : CtxId) (b : Bool) (n : RingId) : s.SameCore (s.dropCompletion c b n) := by
  unfold State.dropCompletion State.unreserve
  dsimp only
  split
  · split
    · exact (setCtx s c _).trans (setCr _ n _)
    · exact setCtx s c _
  · exact setCtx s c _

theorem joinPost (s : State) (c : CtxId) : s.SameCore (s.joinPost c) := by
  unfold State.joinPost
  split
  · split
    · split
      · split
        · exact ((setCtx s c _).trans (setCr _ _ _)).trans (issueRecord _ _)
        · exact dropCompletion s c _ _
      · exact setCtx s c _
    · exact setCtx s c _
  · exact refl s

theorem setOutcome (s : State) (c : CtxId) (st : Status) (n : Nat) : s.SameCore (s.setOutcome c st n) := by
  unfold State.setOutcome
  split
  · exact setCtx s c _
  · exact refl s

theorem judgeDelete (s : State) (n : RingId) : s.SameCore (s.judgeDelete n) := by
  unfold State.judgeDelete
  split
  · split
    · split
      · exact refl s
      · exact ((setSr s n none).trans (setOutcome _ _ _ _)).trans (joinPost _ _)
    · exact refl s
    · exact refl s
  · exact refl s

theorem toPosting (s : State) (c : CtxId) : s.SameCore (s.toPosting c) := by
  unfold State.toPosting
  split
  · exact (joinPost s c).trans (judgeDelete _ _)
  · exact refl s

theorem finish (s : State) (c : CtxId) (st : Status) (n : Nat) : s.SameCore (s.finish c st n) :=
  (setOutcome s c st n).trans (toPosting _ c)

theorem freeContext (s : State) (c : CtxId) : s.SameCore (s.freeContext c) := (setCtx s c _).trans (judgeDelete _ _)

theorem createBop (s : State) (c : CtxId) : s.SameCore (s.createBop c) := by
  unfold State.createBop
  split
  · split
    · exact (setCtx s c _).trans (commands _ _)
    · exact refl s
  · exact refl s

theorem createBops (c : CtxId) (n : Nat) (s : State) : s.SameCore (createBops c n s) := by
  induction n generalizing s with
  | zero => exact refl s
  | succ n ih => exact (createBop s c).trans (ih _)

theorem endSplitting (s : State) (c : CtxId) : s.SameCore (s.endSplitting c) := by
  unfold State.endSplitting
  split
  · split
    · exact setCtx s c _
    · exact toPosting s c
  · exact refl s

theorem beginSplitting (s : State) (c : CtxId) : s.SameCore (s.beginSplitting c) := by
  unfold State.beginSplitting
  split
  · split
    · dsimp only
      split
      · exact (createBops c _ s).trans (endSplitting _ c)
      · exact (createBops c _ s).trans (commands _ _)
    · exact commands s _
  · exact refl s

theorem poolServes (s : State) : s.SameCore s.poolServes := by
  unfold State.poolServes
  split
  · exact refl s
  · next c rest _ =>
    dsimp only
    split
    · split
      · exact ((createBop s c).trans (commands _ _)).trans (endSplitting _ c)
      · exact createBop s c
    · exact createBop s c

theorem completeBop (s : State) (b : Bop) (st : Status) : s.SameCore (s.completeBop b st) := by
  unfold State.completeBop
  split
  · dsimp only
    refine SameCore.trans ?_ (poolServes _)
    split
    · exact (setCtx s b.ctx _).trans (toPosting _ _)
    · exact setCtx s b.ctx _
  · exact refl s

theorem completeAll (st : Status) (bs : List Bop) (s : State) : s.SameCore (completeAll st bs s) := by
  induction bs generalizing s with
  | nil => exact refl s
  | cons b bs ih => exact (completeBop s b st).trans (ih _)

end State.SameCore

end Sys2Proof.Machine
end

