-- ==== Sys2Proof/Laws/Core.lean ====
section
/-! SUPPORT. Posting, splitting and the completion of block operations read and write the contexts, the rings and the outbound stream
only. So a completion can be exchanged with any change to the rest of the state, and it leaves the queues of whole commands as they are. -/

namespace Sys2Proof.Machine

/-- The Command Unit, the Ring Unit and the Host Port of `s` with everything else of `r`. -/
def State.withRest (s r : State) : State := { r with commands := s.commands, rings := s.rings, host := s.host }

namespace State

variable (s r : State)

@[simp] theorem withRest_command (c : CtxId) : (s.withRest r).command c = s.command c := rfl
@[simp] theorem withRest_sr (n : RingId) : (s.withRest r).sr n = s.sr n := rfl
@[simp] theorem withRest_cr (n : RingId) : (s.withRest r).cr n = s.cr n := rfl
@[simp] theorem withRest_commands : (s.withRest r).commands = s.commands := rfl
@[simp] theorem withRest_rings : (s.withRest r).rings = s.rings := rfl
@[simp] theorem withRest_host : (s.withRest r).host = s.host := rfl
@[simp] theorem withRest_self : s.withRest s = s := rfl
@[simp] theorem withRest_withRest (t : State) : (s.withRest r).withRest t = s.withRest t := rfl

/-- A state is its own with the rest of any state that agrees on the rest. -/
theorem SameCore.withRest {s t : State} (h : s.SameCore t) : t.withRest s = t := by
  obtain ⟨a, b, c, d, e, f, g⟩ := h
  cases s
  cases t
  simp only [State.withRest] at *
  subst a b c d e f g
  rfl

theorem issueRecord_withRest (n : RingId) : (s.withRest r).issueRecord n = (s.issueRecord n).withRest r := by
  unfold State.issueRecord
  simp only [withRest_cr]
  split
  · split
    · simp only [withRest_command]
      split <;> rfl
    · rfl
    · rfl
  · rfl

theorem dropCompletion_withRest (c : CtxId) (b : Bool) (n : RingId) :
    (s.withRest r).dropCompletion c b n = (s.dropCompletion c b n).withRest r := by
  unfold State.dropCompletion
  dsimp only
  split
  · unfold State.unreserve
    have h : ((s.withRest r).setCtx c .free).cr n = (s.setCtx c .free).cr n := rfl
    rw [h]
    split <;> rfl
  · rfl

theorem joinPost_withRest (c : CtxId) : (s.withRest r).joinPost c = (s.joinPost c).withRest r := by
  unfold State.joinPost
  simp only [withRest_command]
  split
  · simp only [withRest_sr]
    split
    · simp only [withRest_cr]
      split
      · split
        · exact issueRecord_withRest (((s.setCtx c _).setCr _ _)) r _
        · exact dropCompletion_withRest s r _ _ _
      · rfl
    · rfl
  · rfl

theorem setOutcome_withRest (c : CtxId) (st : Status) (n : Nat) :
    (s.withRest r).setOutcome c st n = (s.setOutcome c st n).withRest r := by
  unfold State.setOutcome
  simp only [withRest_command]
  split <;> rfl

theorem judgeDelete_withRest (n : RingId) : (s.withRest r).judgeDelete n = (s.judgeDelete n).withRest r := by
  unfold State.judgeDelete
  simp only [withRest_sr]
  split
  · split
    · have h : (s.withRest r).srInFlight n = s.srInFlight n := rfl
      rw [h]
      split
      · rfl
      · have h : (s.withRest r).setSr n none = (s.setSr n none).withRest r := rfl
        rw [h, setOutcome_withRest, joinPost_withRest]
    · rfl
    · rfl
  · rfl

theorem toPosting_withRest (c : CtxId) : (s.withRest r).toPosting c = (s.toPosting c).withRest r := by
  unfold State.toPosting
  simp only [withRest_command]
  split
  · rw [joinPost_withRest, judgeDelete_withRest]
  · rfl

theorem finish_withRest (c : CtxId) (st : Status) (n : Nat) :
    (s.withRest r).finish c st n = (s.finish c st n).withRest r := by
  unfold State.finish
  rw [setOutcome_withRest, toPosting_withRest]

theorem createBop_withRest (c : CtxId) : (s.withRest r).createBop c = (s.createBop c).withRest r := by
  unfold State.createBop
  simp only [withRest_command]
  split
  · split <;> rfl
  · rfl

theorem endSplitting_withRest (c : CtxId) : (s.withRest r).endSplitting c = (s.endSplitting c).withRest r := by
  unfold State.endSplitting
  simp only [withRest_command]
  split
  · split
    · rfl
    · exact toPosting_withRest s r c
  · rfl

theorem poolServes_withRest : (s.withRest r).poolServes = s.poolServes.withRest r := by
  unfold State.poolServes
  simp only [withRest_commands]
  split
  · rfl
  · next c rest _ =>
    simp only [createBop_withRest, withRest_command]
    split
    · split
      · exact endSplitting_withRest
          { s.createBop c with commands := { (s.createBop c).commands with splitQueue := rest } } r c
      · rfl
    · rfl

/-- A completion does not read the rest of the state and does not write it (R25, R115). -/
theorem completeBop_withRest (b : Bop) (st : Status) :
    (s.withRest r).completeBop b st = (s.completeBop b st).withRest r := by
  unfold State.completeBop
  simp only [withRest_command]
  split
  · split
    · have h (x : Context) : (s.withRest r).setCtx b.ctx x = (s.setCtx b.ctx x).withRest r := rfl
      rw [h, toPosting_withRest, poolServes_withRest]
    · exact poolServes_withRest (s.setCtx b.ctx _) r
  · rfl

theorem completeAll_withRest (st : Status) (bs : List Bop) :
    completeAll st bs (s.withRest r) = (completeAll st bs s).withRest r := by
  induction bs generalizing s with
  | nil => rfl
  | cons b bs ih => simp only [completeAll, completeBop_withRest, ih]

theorem completeAll_append (st : Status) (xs ys : List Bop) :
    completeAll st (xs ++ ys) s = completeAll st ys (completeAll st xs s) := by
  induction xs generalizing s with
  | nil => rfl
  | cons b bs ih => simp only [List.cons_append, completeAll, ih]

/-! ### The queues of whole commands -/

/-- The flush-all queue and the request list are the same in both. -/
def SameQueues (s t : State) : Prop :=
  t.commands.flushAllQueue = s.commands.flushAllQueue ∧ t.commands.noticeRequests = s.commands.noticeRequests

namespace SameQueues

variable {s r : State}

theorem trans {t u : State} (h : s.SameQueues t) (g : t.SameQueues u) : s.SameQueues u :=
  ⟨g.1.trans h.1, g.2.trans h.2⟩

theorem issueRecord (s : State) (n : RingId) : s.SameQueues (s.issueRecord n) := by
  unfold State.issueRecord
  split
  · split
    · split <;> exact ⟨rfl, rfl⟩
    · exact ⟨rfl, rfl⟩
    · exact ⟨rfl, rfl⟩
  · exact ⟨rfl, rfl⟩

theorem joinPost (s : State) (c : CtxId) : s.SameQueues (s.joinPost c) := by
  unfold State.joinPost
  split
  · split
    · split
      · split
        · exact trans ⟨rfl, rfl⟩ (issueRecord _ _)
        · unfold State.dropCompletion State.unreserve
          dsimp only
          split
          · split <;> exact ⟨rfl, rfl⟩
          · exact ⟨rfl, rfl⟩
      · exact ⟨rfl, rfl⟩
    · exact ⟨rfl, rfl⟩
  · exact ⟨rfl, rfl⟩

theorem setOutcome (s : State) (c : CtxId) (st : Status) (n : Nat) : s.SameQueues (s.setOutcome c st n) := by
  unfold State.setOutcome
  split <;> exact ⟨rfl, rfl⟩

theorem judgeDelete (s : State) (n : RingId) : s.SameQueues (s.judgeDelete n) := by
  unfold State.judgeDelete
  split
  · split
    · split
      · exact ⟨rfl, rfl⟩
      · exact (trans ⟨rfl, rfl⟩ (setOutcome (s.setSr n none) _ _ _)).trans (joinPost _ _)
    · exact ⟨rfl, rfl⟩
    · exact ⟨rfl, rfl⟩
  · exact ⟨rfl, rfl⟩

theorem toPosting (s : State) (c : CtxId) : s.SameQueues (s.toPosting c) := by
  unfold State.toPosting
  split
  · exact (joinPost s c).trans (judgeDelete _ _)
  · exact ⟨rfl, rfl⟩

theorem finish (s : State) (c : CtxId) (st : Status) (n : Nat) : s.SameQueues (s.finish c st n) :=
  (setOutcome s c st n).trans (toPosting _ _)

end SameQueues

end State

end Sys2Proof.Machine
end

