-- ==== Sys2Proof/Laws/Sparse.lean ====
section
/-! SUPPORT. The laws of sparse tables: a read after a write, a write leaves every other key alone, and every write keeps the canonical
form; then the same for the directory's sets and lines, and for the frame store. -/

namespace Sys2Proof.Machine

namespace Sparse

variable {α : Type} (d : α)

theorem get_insert (m : List (Nat × α)) (a : Nat) (v : α) (b : Nat) (h : ∀ c ∈ m, c.1 ≠ a) :
    get d (insert a v m) b = if b = a then v else get d m b := by
  induction m with
  | nil => simp [insert, get]
  | cons c m ih =>
    obtain ⟨k, x⟩ := c
    have hk : k ≠ a := h (k, x) (by simp)
    have ih := ih fun c hc => h c (by simp [hc])
    by_cases hlt : a < k
    · simp [insert, get, hlt]
    · simp only [insert, get, hlt, if_false, ih]
      by_cases hbk : b = k
      · subst hbk
        simp [hk]
      · simp [hbk]

theorem get_erase_self (m : List (Nat × α)) (a : Nat) : get d (erase m a) a = d := by
  induction m with
  | nil => rfl
  | cons c m ih =>
    obtain ⟨k, x⟩ := c
    by_cases hk : k = a
    · simpa [erase, hk] using ih
    · have : ¬a = k := fun e => hk e.symm
      simpa [erase, hk, get, this] using ih

theorem get_erase_ne (m : List (Nat × α)) (a b : Nat) (h : b ≠ a) : get d (erase m a) b = get d m b := by
  induction m with
  | nil => rfl
  | cons c m ih =>
    obtain ⟨k, x⟩ := c
    by_cases hk : k = a
    · have : ¬b = k := fun e => h (e.trans hk)
      simpa [erase, hk, get, this, h] using ih
    · simp only [erase, bne_iff_ne, ne_eq, hk, not_false_eq_true, List.filter_cons_of_pos, get] at ih ⊢
      rw [ih]

theorem not_mem_erase (m : List (Nat × α)) (a : Nat) : ∀ c ∈ erase m a, c.1 ≠ a := by
  intro c hc
  simpa [erase] using (List.mem_filter.1 hc).2

theorem sorted_insert (m : List (Nat × α)) (a : Nat) (v : α) (hs : (m.map Prod.fst).Pairwise (· < ·))
    (h : ∀ c ∈ m, c.1 ≠ a) : ((insert a v m).map Prod.fst).Pairwise (· < ·) ∧ ∀ c ∈ insert a v m, c = (a, v) ∨ c ∈ m := by
  induction m with
  | nil => simp [insert]
  | cons c m ih =>
    obtain ⟨k, x⟩ := c
    have hk : k ≠ a := h (k, x) (by simp)
    rw [List.map_cons, List.pairwise_cons] at hs
    obtain ⟨ih₁, ih₂⟩ := ih hs.2 fun c hc => h c (by simp [hc])
    by_cases hlt : a < k
    · refine ⟨?_, by simp [insert, hlt]⟩
      simp only [insert, hlt, if_true, List.map_cons, List.pairwise_cons]
      refine ⟨?_, hs.1, hs.2⟩
      intro y hy
      rcases List.mem_cons.1 hy with rfl | hy
      · exact hlt
      · exact lt_trans hlt (hs.1 y hy)
    · refine ⟨?_, ?_⟩
      · simp only [insert, hlt, if_false, List.map_cons, List.pairwise_cons]
        refine ⟨?_, ih₁⟩
        intro y hy
        obtain ⟨c, hc, rfl⟩ := List.mem_map.1 hy
        rcases ih₂ c hc with rfl | hc
        · show k < a
          omega
        · exact hs.1 _ (List.mem_map_of_mem hc)
      · intro c hc
        simp only [insert, hlt, if_false, List.mem_cons] at hc ⊢
        rcases hc with rfl | hc
        · exact .inr (.inl rfl)
        · rcases ih₂ c hc with rfl | hc
          · exact .inl rfl
          · exact .inr (.inr hc)

variable [DecidableEq α]

@[simp] theorem get_put_self (m : List (Nat × α)) (a : Nat) (v : α) : get d (put d m a v) a = v := by
  unfold put
  split
  · next h => rw [get_erase_self, h]
  · rw [get_insert d _ _ _ _ (not_mem_erase m a), if_pos rfl]

theorem get_put_ne (m : List (Nat × α)) (a b : Nat) (v : α) (h : b ≠ a) : get d (put d m a v) b = get d m b := by
  unfold put
  split
  · exact get_erase_ne d m a b h
  · rw [get_insert d _ _ _ _ (not_mem_erase m a), if_neg h, get_erase_ne d m a b h]

theorem wf_iff (m : List (Nat × α)) :
    wf d m = true ↔ (m.map Prod.fst).Pairwise (· < ·) ∧ ∀ c ∈ m, c.2 ≠ d := by
  simp [wf]

theorem wf_put (m : List (Nat × α)) (a : Nat) (v : α) (h : wf d m = true) : wf d (put d m a v) = true := by
  rw [wf_iff] at h ⊢
  have hse : ((erase m a).map Prod.fst).Pairwise (· < ·) :=
    h.1.sublist (List.Sublist.map _ List.filter_sublist)
  have hde : ∀ c ∈ erase m a, c.2 ≠ d := fun c hc => h.2 c (List.mem_filter.1 hc).1
  unfold put
  split
  · exact ⟨hse, hde⟩
  · next hv =>
    obtain ⟨h₁, h₂⟩ := sorted_insert (erase m a) a v hse (not_mem_erase m a)
    refine ⟨h₁, fun c hc => ?_⟩
    rcases h₂ c hc with rfl | hc
    · exact hv
    · exact hde c hc

end Sparse

/-! ### Sets and lines -/

namespace State

variable (s : State)

@[simp] theorem cacheSet_setCacheSet_self (S : SetId) (cs : CacheSet) : (s.setCacheSet S cs).cacheSet S = cs := by
  simp [cacheSet, setCacheSet]

theorem cacheSet_setCacheSet_ne (S R : SetId) (cs : CacheSet) (h : S ≠ R) :
    (s.setCacheSet S cs).cacheSet R = s.cacheSet R := by
  have h' : R.val ≠ S.val := fun e => h (Fin.ext e.symm)
  simp [cacheSet, setCacheSet, Sparse.get_put_ne _ _ _ _ _ h']

@[simp] theorem line_setLine_self (l : LineId) (ln : Line) : (s.setLine l ln).line l = ln := by
  simp [line, setLine]

theorem line_setLine_ne (l k : LineId) (ln : Line) (h : l ≠ k) : (s.setLine l ln).line k = s.line k := by
  obtain ⟨S, w⟩ := l
  obtain ⟨R, v⟩ := k
  by_cases hS : S = R
  · subst hS
    have hw : w.val ≠ v.val := fun e => h (by rw [Fin.ext e])
    simp [line, setLine, hw]
  · simp [line, setLine, cacheSet_setCacheSet_ne _ _ _ _ hS]

end State

/-! ### The frame store -/

namespace Memory

theorem get_append_left (m n : List Host.Cell) (a : Nat) (h : ∀ c ∈ m, c.1 ≠ a) : read (m ++ n) a = read n a := by
  induction m with
  | nil => rfl
  | cons c m ih =>
    obtain ⟨k, x⟩ := c
    have hk : ¬a = k := fun e => h (k, x) (by simp) e.symm
    have := ih fun c hc => h c (by simp [hc])
    simpa [read, Sparse.get, hk] using this

theorem get_append_right (m n : List Host.Cell) (a : Nat) (h : ∀ c ∈ n, c.1 ≠ a) : read (m ++ n) a = read m a := by
  induction m with
  | nil =>
    have := get_append_left n [] a h
    simpa [read, Sparse.get] using this
  | cons c m ih =>
    obtain ⟨k, x⟩ := c
    by_cases hk : a = k
    · simp [read, Sparse.get, hk]
    · simpa [read, Sparse.get, hk] using ih

theorem read_filter (m : List Host.Cell) (p : Nat → Bool) (a : Nat) (h : p a = true) :
    read (m.filter fun c => p c.1) a = read m a := by
  induction m with
  | nil => rfl
  | cons c m ih =>
    obtain ⟨k, x⟩ := c
    by_cases hp : p k = true
    · simp only [read, Sparse.get, hp, List.filter_cons_of_pos] at ih ⊢
      rw [ih]
    · have hk : ¬a = k := fun e => hp (e ▸ h)
      simpa [read, Sparse.get, hp, hk] using ih

theorem blockCells_keys (base k : Nat) (bs : List Byte) :
    ((blockCells base k bs).map Prod.fst).Pairwise (· < ·) ∧
      ∀ c ∈ blockCells base k bs, base + k ≤ c.1 ∧ c.1 < base + k + bs.length ∧ c.2 ≠ unwritten := by
  induction bs generalizing k with
  | nil => simp [blockCells]
  | cons b bs ih =>
    obtain ⟨h₁, h₂⟩ := ih (k + 1)
    unfold blockCells
    split
    · refine ⟨h₁, fun c hc => ?_⟩
      obtain ⟨h₃, h₄, h₅⟩ := h₂ c hc
      simp only [List.length_cons]
      exact ⟨by omega, by omega, h₅⟩
    · next hb =>
      refine ⟨?_, ?_⟩
      · simp only [List.map_cons, List.pairwise_cons]
        refine ⟨fun y hy => ?_, h₁⟩
        obtain ⟨c, hc, rfl⟩ := List.mem_map.1 hy
        have := h₂ c hc
        omega
      · intro c hc
        simp only [List.length_cons]
        rcases List.mem_cons.1 hc with rfl | hc
        · exact ⟨le_refl _, by simp only; omega, hb⟩
        · have := h₂ c hc
          exact ⟨by omega, by omega, this.2.2⟩

theorem read_blockCells (base k : Nat) (bs : List Byte) (a : Nat) (h : base + k ≤ a) :
    read (blockCells base k bs) a = bs.getD (a - base - k) unwritten := by
  induction bs generalizing k with
  | nil => rfl
  | cons b bs ih =>
    unfold blockCells
    by_cases ha : a = base + k
    · subst ha
      split
      · next hb =>
        have hz : ∀ c ∈ blockCells base (k + 1) bs, c.1 ≠ base + k := fun c hc => by
          have := (blockCells_keys base (k + 1) bs).2 c hc
          omega
        have := get_append_right [] _ _ hz
        simp only [List.nil_append] at this
        rw [this, hb]
        simp [read, Sparse.get]
      · simp [read, Sparse.get]
    · have ih := ih (k + 1) (by omega)
      have e : a - base - k = (a - base - (k + 1)) + 1 := by omega
      split
      · rw [ih, e, List.getD_cons_succ]
      · simp only [read, Sparse.get, ha, if_false] at ih ⊢
        rw [ih, e, List.getD_cons_succ]

/-- A byte of a block just written reads as written, and every other byte as before. -/
theorem read_writeBlock (m : List Host.Cell) (base : Nat) (data : List Byte) (a : Nat) (hd : data.length = 4096) :
    read (writeBlock m base data) a =
      if base ≤ a ∧ a < base + 4096 then data.getD (a - base) unwritten else read m a := by
  have ht : data.take 4096 = data := List.take_of_length_le (by omega)
  unfold writeBlock
  rw [ht]
  have hb := (blockCells_keys base 0 data).2
  by_cases h₁ : a < base
  · rw [if_neg (by omega), List.append_assoc, get_append_right]
    · exact read_filter m (fun k => decide (k < base)) a (by simpa using h₁)
    · intro c hc
      rcases List.mem_append.1 hc with hc | hc
      · have := hb c hc
        omega
      · have := (List.mem_filter.1 hc).2
        simp only [decide_eq_true_eq] at this
        omega
  · by_cases h₂ : a < base + 4096
    · rw [if_pos (by omega), get_append_right, get_append_left]
      · exact read_blockCells base 0 data a (by omega)
      · intro c hc
        have := (List.mem_filter.1 hc).2
        simp only [decide_eq_true_eq] at this
        omega
      · intro c hc
        have := (List.mem_filter.1 hc).2
        simp only [decide_eq_true_eq] at this
        omega
    · rw [if_neg (by omega), get_append_left]
      · exact read_filter m (fun k => decide (base + 4096 ≤ k)) a (by simp; omega)
      · intro c hc
        rcases List.mem_append.1 hc with hc | hc
        · have := (List.mem_filter.1 hc).2
          simp only [decide_eq_true_eq] at this
          omega
        · have := hb c hc
          omega

/-- Writing a block keeps the canonical form. -/
theorem wf_writeBlock (m : List Host.Cell) (base : Nat) (data : List Byte) (h : wf m = true) :
    wf (writeBlock m base data) = true := by
  have hl : (data.take 4096).length ≤ 4096 := by simp
  obtain ⟨hs, hb⟩ := blockCells_keys base 0 (data.take 4096)
  rw [wf, Sparse.wf_iff] at h ⊢
  have sub (p : Host.Cell → Bool) : ((m.filter p).map Prod.fst).Pairwise (· < ·) :=
    h.1.sublist (List.Sublist.map _ List.filter_sublist)
  unfold writeBlock
  refine ⟨?_, ?_⟩
  · simp only [List.map_append, List.pairwise_append]
    refine ⟨⟨sub _, hs, ?_⟩, sub _, ?_⟩
    · intro x hx y hy
      obtain ⟨c, hc, rfl⟩ := List.mem_map.1 hx
      obtain ⟨e, he, rfl⟩ := List.mem_map.1 hy
      have h₁ := (List.mem_filter.1 hc).2
      have h₂ := hb e he
      simp only [decide_eq_true_eq] at h₁
      omega
    · intro x hx y hy
      obtain ⟨e, he, rfl⟩ := List.mem_map.1 hy
      have h₂ := (List.mem_filter.1 he).2
      simp only [decide_eq_true_eq] at h₂
      rcases List.mem_append.1 hx with hx | hx
      · obtain ⟨c, hc, rfl⟩ := List.mem_map.1 hx
        have h₁ := (List.mem_filter.1 hc).2
        simp only [decide_eq_true_eq] at h₁
        omega
      · obtain ⟨c, hc, rfl⟩ := List.mem_map.1 hx
        have h₁ := hb c hc
        omega
  · intro c hc
    simp only [List.mem_append] at hc
    rcases hc with (hc | hc) | hc
    · exact h.2 c (List.mem_filter.1 hc).1
    · exact (hb c hc).2.2
    · exact h.2 c (List.mem_filter.1 hc).1

end Memory

end Sys2Proof.Machine
end

