-- ==== Sys2Proof/Laws/Stable.lean ====
section
/-! SUPPORT. What the shared operations can do to the state, said once. `Stable P` says that a property survives each kind of
change the operations below an event are built from; each lemma here says that an operation consists of such changes only. An
invariant, or a frame such as 'the frame store is unchanged', is then proved of every operation by proving `Stable` for it. -/

namespace Sys2Proof.Machine

/-- What an operation below an event may change of a completion ring: its state, its reserved count, its post queue, its flight
flag, its unsignalled count and its timer, and nothing else. -/
def CompletionRing.SameRing (r q : CompletionRing) : Prop :=
  r.base = q.base ∧ r.entries = q.entries ∧ r.tail = q.tail ∧ r.head = q.head ∧ r.phase = q.phase ∧
    r.vector = q.vector ∧ r.interruptsOn = q.interruptsOn ∧ r.coalesceCount = q.coalesceCount ∧
    r.coalesceTime = q.coalesceTime

/-- The recency order of `cs` is that of `old`, or that with one way moved to the front. -/
def CacheSet.SameRecency (cs old : CacheSet) : Prop :=
  cs.recency = old.recency ∨ ∃ w, cs.recency = w :: old.recency.filter (· != w)

/-- No way of `cs` has more pins than it had in `old`. -/
def CacheSet.NoMorePins (cs old : CacheSet) : Prop := ∀ w : WayId, cs.ways[w].pins ≤ old.ways[w].pins

/-- The changes that the operations below an event are built from. -/
structure Stable (P : State → Prop) : Prop where
  commands : ∀ s x, P s → P { s with commands := x }
  faults : ∀ s x, P s → P { s with faults := x }
  host : ∀ s ch q v w r, P s → P { s with host := { s.host with
    channels := ch, channelQueue := q, vectorPending := v, writes := w, reads := r } }
  media : ∀ s sl q r, P s → P { s with media := { s.media with slots := sl, fillQueue := q, requests := r } }
  arbiter : ∀ s f n g, P s → P { s with rings := { s.rings with fetch := f, currentSr := n, grantsUsed := g } }
  sr : ∀ s n q st b, P s → s.sr n = some q → P (s.setSr n (some { q with state := st, fetchInFlight := b }))
  srGone : ∀ s n, P s → P (s.setSr n none)
  cr : ∀ s n q r, P s → s.cr n = some q → CompletionRing.SameRing r q → P (s.setCr n (some r))
  writeBack : ∀ s e u v q f w, P s → P { s with writeBack := { s.writeBack with
    currentEpoch := e, unclean0 := u, unclean1 := v, urgent := q, activeFlushAll := f, walk := w } }
  dirty : ∀ s d, P s → P (State.judgePressure { s with writeBack := { s.writeBack with dirtyOrder := d } })
  set : ∀ s S cs, P s → CacheSet.SameRecency cs (s.cacheSet S) → CacheSet.NoMorePins cs (s.cacheSet S) →
    P (s.setCacheSet S cs)
  reinit : ∀ s S, P s → P (s.setCacheSet S CacheSet.reset)
  pin : ∀ s l, P s → (s.line l).pins ≠ Config.maxPins →
    ¬((s.line l).pins = 0 ∧ (s.cacheSet l.set).otherPinned l.way = Config.maxPinnedWays) →
    P (s.setLine l { s.line l with pins := (s.line l).pins + 1 })
  halt : ∀ s, P s → P s.halt
  quiesced : ∀ s b, P s → s.engine.state = .quiescing →
    P { s with engine := { s.engine with state := .quiesced, quiesceResidue := b } }

/-- What an issue of the arbiter is: a fill that changes no set, or a draw that changes its line's set, into the lowest FREE slot. -/
theorem State.issueOne_cases {s t : State} {d : Option SetId} (h : s.issueOne = some (t, d)) :
    ∃ i l, firstFree s.media.slots = some i ∧
      (t = s.issueFill i l ∧ d = none ∨ t = s.issueClean i l ∧ d = some l.set) := by
  have issued {u : State} {e : Option SetId} (h : some (u, e) = some (t, d)) : t = u ∧ d = e :=
    ⟨(Prod.mk.inj (Option.some.inj h)).1.symm, (Prod.mk.inj (Option.some.inj h)).2.symm⟩
  unfold State.issueOne at h
  split at h
  · cases h
  · split at h
    · cases h
    · next i hi =>
      refine ⟨i, ?_⟩
      split at h
      · split at h
        · exact ⟨_, hi, .inr (issued h)⟩
        · split at h
          · exact ⟨_, hi, .inl (issued h)⟩
          · split at h
            · exact ⟨_, hi, .inr (issued h)⟩
            · cases h
      · exact ⟨_, hi, .inl (issued h)⟩
      · cases h

namespace Stable

variable {P : State → Prop} (h : Stable P) {s : State}
include h

/-! ### Primitive updates -/

theorem setLine (l : LineId) (ln : Line) (hs : P s) (hp : ln.pins ≤ (s.line l).pins) : P (s.setLine l ln) := by
  refine h.set s l.set _ hs (.inl rfl) fun w => ?_
  by_cases hw : l.way = w
  · subst hw
    simpa [State.line] using hp
  · have hw' : l.way.val ≠ w.val := fun e => hw (Fin.ext e)
    simp [hw']

theorem touchWay (l : LineId) (hs : P s) : P (s.touchWay l) :=
  h.set s l.set _ hs (.inr ⟨l.way, rfl⟩) fun _ => le_refl _

theorem setWaitList (S : SetId) (q : List Bop) (hs : P s) : P (s.setWaitList S q) :=
  h.set s S _ hs (.inl rfl) fun _ => le_refl _

theorem setFence (S : SetId) (f : FenceRecord) (hs : P s) : P (s.setFence S f) :=
  h.set s S _ hs (.inl rfl) fun _ => le_refl _

theorem setLineState (l : LineId) (st : LineState) (hs : P s) : P (s.setLineState l st) := h.setLine l _ hs (le_refl _)

theorem setAccessQueue (l : LineId) (q : List Bop) (hs : P s) : P (s.setAccessQueue l q) := h.setLine l _ hs (le_refl _)

theorem setWatchers (l : LineId) (w : List Watcher) (hs : P s) : P (s.setWatchers l w) := h.setLine l _ hs (le_refl _)

theorem enterInvalid (l : LineId) (hs : P s) : P (s.enterInvalid l) := h.setLine l _ hs (Nat.zero_le _)

theorem setCtx (c : CtxId) (x : Context) (hs : P s) : P (s.setCtx c x) := h.commands s _ hs

theorem setSlot (i : SlotId) (x : Option MediaSlot) (hs : P s) : P (s.setSlot i x) := h.media s _ _ _ hs

theorem fillQueue (q : List LineId) (hs : P s) : P { s with media := { s.media with fillQueue := q } } :=
  h.media s _ _ _ hs

theorem mediaSend (r : MediaRequest) (hs : P s) : P (s.mediaSend r) := h.media s _ _ _ hs

theorem setChannel (i : ChannelId) (x : Option Transfer) (hs : P s) : P (s.setChannel i x) := h.host s _ _ _ _ _ hs

theorem channelQueue (q : List Transfer) (hs : P s) : P { s with host := { s.host with channelQueue := q } } :=
  h.host s _ _ _ _ _ hs

theorem hostWrite (w : HostWrite) (hs : P s) : P (s.hostWrite w) := h.host s _ _ _ _ _ hs

theorem hostRead (r : HostRead) (hs : P s) : P (s.hostRead r) := h.host s _ _ _ _ _ hs

theorem setEntry (k : Fin 5) (e : CaptureEntry) (hs : P s) : P (s.setEntry k e) := h.faults s _ hs

theorem activeFlushAll (f : Option FlushAllRecord) (hs : P s) :
    P { s with writeBack := { s.writeBack with activeFlushAll := f } } := h.writeBack s _ _ _ _ _ _ hs

theorem epoch (e : Epoch) (f : Option FlushAllRecord) (hs : P s) :
    P { s with writeBack := { s.writeBack with currentEpoch := e, activeFlushAll := f } } :=
  h.writeBack s _ _ _ _ _ _ hs

theorem walk (w : Option RetagWalk) (hs : P s) : P { s with writeBack := { s.writeBack with walk := w } } :=
  h.writeBack s _ _ _ _ _ _ hs

theorem flushAllQueue (q : List CtxId) (hs : P s) : P { s with commands := { s.commands with flushAllQueue := q } } :=
  h.commands s _ hs

theorem setUnclean (e : Epoch) (n : Nat) (hs : P s) : P (s.setUnclean e n) := by
  cases e <;> exact h.writeBack s _ _ _ _ _ _ hs

theorem uncleanUp (e : Epoch) (hs : P s) : P (s.uncleanUp e) := h.setUnclean e _ hs

theorem uncleanDown (e : Epoch) (hs : P s) : P (s.uncleanDown e) := h.setUnclean e _ hs

theorem joinDirty (l : LineId) (hs : P s) : P (s.joinDirty l) := h.dirty s _ hs

theorem leaveDirty (l : LineId) (hs : P s) : P (s.leaveDirty l) := by
  unfold State.leaveDirty
  split
  · exact h.dirty s _ hs
  · exact hs

theorem wantClean (l : LineId) (hs : P s) : P (s.wantClean l) := by
  unfold State.wantClean
  split
  · exact hs
  · exact h.writeBack _ _ _ _ _ _ _ (h.setLine l _ hs (le_refl _))

theorem unwantClean (l : LineId) (hs : P s) : P (s.unwantClean l) :=
  h.writeBack _ _ _ _ _ _ _ (h.setLine l _ hs (le_refl _))

/-! ### Faults and notices -/

theorem reportFault (r : FaultRecord) (hs : P s) : P (s.reportFault r) := h.setEntry _ _ hs

theorem deliver (c : CtxId) (k : Fin 5) (hs : P s) : P (s.deliver c k) := by
  unfold State.deliver
  dsimp only
  split
  · exact h.hostWrite _ (h.setCtx _ _ (h.commands _ _ (h.setEntry _ _ hs)))
  · exact h.commands _ _ (h.setEntry _ _ hs)

theorem deliverLoop (cs : List CtxId) (hs : P s) : P (deliverLoop cs s) := by
  induction cs generalizing s with
  | nil => exact hs
  | cons c cs ih =>
    unfold Machine.deliverLoop
    split
    · exact ih (h.deliver c _ hs)
    · exact hs

theorem deliverNotices (hs : P s) : P s.deliverNotices := h.deliverLoop _ hs

theorem mergeNotice (n : Notice) (hs : P s) : P (s.mergeNotice n) := h.setEntry _ _ hs

/-! ### The Ring Unit -/

theorem issueRecord (n : RingId) (hs : P s) : P (s.issueRecord n) := by
  unfold State.issueRecord
  split
  · next r hr =>
    split
    · split
      · exact h.hostWrite _ (h.cr s n r _ hs hr ⟨rfl, rfl, rfl, rfl, rfl, rfl, rfl, rfl, rfl⟩)
      · exact h.cr s n r _ hs hr ⟨rfl, rfl, rfl, rfl, rfl, rfl, rfl, rfl, rfl⟩
    · exact hs
    · exact hs
  · exact hs

theorem unreserve (n : RingId) (hs : P s) : P (s.unreserve n) := by
  unfold State.unreserve
  split
  · next r hr => exact h.cr s n r _ hs hr ⟨rfl, rfl, rfl, rfl, rfl, rfl, rfl, rfl, rfl⟩
  · exact hs

theorem dropCompletion (c : CtxId) (b : Bool) (n : RingId) (hs : P s) : P (s.dropCompletion c b n) := by
  unfold State.dropCompletion
  dsimp only
  split
  · exact h.unreserve n (h.setCtx c _ hs)
  · exact h.setCtx c _ hs

theorem joinPost (c : CtxId) (hs : P s) : P (s.joinPost c) := by
  unfold State.joinPost
  split
  · split
    · next q _ =>
      split
      · next r hr =>
        split
        · exact h.issueRecord _ (h.cr _ q.boundCr r _ (h.setCtx c _ hs) hr ⟨rfl, rfl, rfl, rfl, rfl, rfl, rfl, rfl, rfl⟩)
        · exact h.dropCompletion _ _ _ hs
      · exact h.setCtx _ _ hs
    · exact h.setCtx _ _ hs
  · exact hs

theorem setOutcome (c : CtxId) (st : Status) (n : Nat) (hs : P s) : P (s.setOutcome c st n) := by
  unfold State.setOutcome
  split
  · exact h.setCtx _ _ hs
  · exact hs

theorem judgeDelete (n : RingId) (hs : P s) : P (s.judgeDelete n) := by
  unfold State.judgeDelete
  split
  · split
    · split
      · exact hs
      · exact h.joinPost _ (h.setOutcome _ _ _ (h.srGone s n hs))
    · exact hs
    · exact hs
  · exact hs

theorem toPosting (c : CtxId) (hs : P s) : P (s.toPosting c) := by
  unfold State.toPosting
  split
  · exact h.judgeDelete _ (h.joinPost c hs)
  · exact hs

theorem finish (c : CtxId) (st : Status) (n : Nat) (hs : P s) : P (s.finish c st n) :=
  h.toPosting c (h.setOutcome c st n hs)

theorem freeContext (c : CtxId) (hs : P s) : P (s.freeContext c) := h.judgeDelete _ (h.setCtx c _ hs)

theorem claim (n : RingId) (hs : P s) : P (s.claim n) := by
  unfold State.claim
  split
  · exact h.halt s hs
  · exact hs

theorem faultSr (n : RingId) (r : RingFaultReason) (hs : P s) : P (s.faultSr n r) := by
  unfold State.faultSr
  dsimp only
  refine h.claim n (h.reportFault _ ?_)
  split
  · next q hq =>
    split
    · exact h.sr s n q _ q.fetchInFlight hs hq
    · exact hs
  · exact hs

theorem dropAll (n : RingId) (cs : List CtxId) (hs : P s) : P (dropAll n cs s) := by
  induction cs generalizing s with
  | nil => exact hs
  | cons c cs ih =>
    unfold Machine.dropAll
    split
    · exact ih (h.judgeDelete _ (h.dropCompletion _ _ _ hs))
    · exact ih hs

theorem faultCr (n : RingId) (r : RingFaultReason) (hs : P s) : P (s.faultCr n r) := by
  unfold State.faultCr
  split
  · next q hq =>
    exact h.claim n (h.reportFault _ (h.dropAll n _ (h.cr s n q _ hs hq ⟨rfl, rfl, rfl, rfl, rfl, rfl, rfl, rfl, rfl⟩)))
  · exact hs

theorem emit (v : VectorId) (b : Bool) (hs : P s) : P (s.emit v b) := by
  unfold State.emit
  split
  · exact h.hostWrite _ hs
  · exact h.host s _ _ _ _ _ hs

theorem sendInterrupt (n : RingId) (b : Bool) (hs : P s) : P (s.sendInterrupt n b) := by
  unfold State.sendInterrupt
  split
  · next r hr => exact h.emit _ _ (h.cr s n r _ hs hr ⟨rfl, rfl, rfl, rfl, rfl, rfl, rfl, rfl, rfl⟩)
  · exact hs

theorem grant (n : RingId) (hs : P s) : P (s.grant n) := by
  unfold State.grant
  split
  · next q c hq _ => exact h.hostRead _ (h.arbiter _ _ _ _ (h.sr _ n q q.state true (h.setCtx c _ hs) hq))
  · exact hs
  · exact hs

theorem fetchArbiter (hs : P s) : P s.fetchArbiter := by
  unfold State.fetchArbiter
  split
  · exact hs
  · split
    · exact h.grant 0 hs
    · split
      · exact h.grant _ (h.arbiter s s.rings.fetch s.rings.currentSr _ hs)
      · split
        · exact h.grant _ (h.arbiter s s.rings.fetch _ 1 hs)
        · exact hs

theorem judgeQuiesce (hs : P s) : P s.judgeQuiesce := by
  unfold State.judgeQuiesce
  split
  · next hq => exact h.quiesced s _ hs hq.1
  · exact hs

theorem settleHost (hs : P s) : P s.settleHost := h.fetchArbiter (h.judgeQuiesce (h.deliverNotices hs))

/-! ### Splitting and completion -/

theorem createBop (c : CtxId) (hs : P s) : P (s.createBop c) := by
  unfold State.createBop
  split
  · split
    · exact h.commands _ _ (h.setCtx c _ hs)
    · exact hs
  · exact hs

theorem createBops (c : CtxId) (n : Nat) (hs : P s) : P (createBops c n s) := by
  induction n generalizing s with
  | zero => exact hs
  | succ n ih => exact ih (h.createBop c hs)

theorem endSplitting (c : CtxId) (hs : P s) : P (s.endSplitting c) := by
  unfold State.endSplitting
  split
  · split
    · exact h.setCtx _ _ hs
    · exact h.toPosting c hs
  · exact hs

theorem beginSplitting (c : CtxId) (hs : P s) : P (s.beginSplitting c) := by
  unfold State.beginSplitting
  split
  · split
    · dsimp only
      split
      · exact h.endSplitting c (h.createBops c _ hs)
      · exact h.commands _ _ (h.createBops c _ hs)
    · exact h.commands _ _ hs
  · exact hs

theorem poolServes (hs : P s) : P s.poolServes := by
  unfold State.poolServes
  split
  · exact hs
  · next c rest _ =>
    dsimp only
    split
    · split
      · exact h.endSplitting c (h.commands _ _ (h.createBop c hs))
      · exact h.createBop c hs
    · exact h.createBop c hs

theorem completeBop (b : Bop) (st : Status) (hs : P s) : P (s.completeBop b st) := by
  unfold State.completeBop
  split
  · dsimp only
    refine h.poolServes ?_
    split
    · exact h.toPosting _ (h.setCtx _ _ hs)
    · exact h.setCtx _ _ hs
  · exact hs

theorem completeAll (st : Status) (bs : List Bop) (hs : P s) : P (completeAll st bs s) := by
  induction bs generalizing s with
  | nil => exact hs
  | cons b bs ih => exact ih (h.completeBop b st hs)

/-! ### The data mover -/

theorem takeChannel (i : ChannelId) (t : Transfer) (hs : P s) : P (s.takeChannel i t) := by
  unfold State.takeChannel
  dsimp only
  split
  · exact h.hostRead _ (h.setChannel i _ hs)
  · exact h.setChannel i _ hs

theorem handOver (t : Transfer) (hs : P s) : P (s.handOver t) := by
  unfold State.handOver
  split
  · exact h.takeChannel _ t hs
  · exact h.channelQueue _ hs

theorem releaseChannel (i : ChannelId) (hs : P s) : P (s.releaseChannel i) := by
  unfold State.releaseChannel
  split
  · exact h.setChannel i _ hs
  · exact h.takeChannel i _ (h.channelQueue _ hs)

/-! ### The Line Directory -/

theorem startRead (l : LineId) (b : Bop) (hs : P s) : P (s.startRead l b) :=
  h.handOver _ (h.setLine l _ hs (le_refl _))

theorem startWrite (l : LineId) (b : Bop) (hs : P s) : P (s.startWrite l b) :=
  h.handOver _ (h.setLine l _ hs (le_refl _))

theorem startPin (l : LineId) (b : Bop) (hs : P s) : P (s.startPin l b) := by
  unfold State.startPin
  dsimp only
  split
  · exact h.completeBop _ _ hs
  · split
    · exact h.completeBop _ _ hs
    · next h₁ h₂ => exact h.completeBop _ _ (h.touchWay l (h.pin s l hs h₁ h₂))

theorem forgetDirty (l : LineId) (hs : P s) : P (s.forgetDirty l) := by
  unfold State.forgetDirty
  split
  · exact h.uncleanDown _ (h.unwantClean l (h.leaveDirty l hs))
  all_goals exact hs

theorem startDiscard (l : LineId) (b : Bop) (hs : P s) : P (s.startDiscard l b) :=
  h.completeBop _ _ (h.completeAll _ _ (h.enterInvalid l (h.setAccessQueue l _ (h.setWatchers l _ (h.forgetDirty l hs)))))

theorem flushAllFailure (st : Status) (hs : P s) : P (s.flushAllFailure st) := by
  unfold State.flushAllFailure
  split
  · exact h.writeBack s _ _ _ _ _ _ hs
  · exact hs

theorem oldEpochFailure (e : Epoch) (st : Status) (hs : P s) : P (s.oldEpochFailure e st) := by
  unfold State.oldEpochFailure
  split
  · split
    · exact h.flushAllFailure st hs
    · exact hs
  · exact hs

theorem giveUpUnclean (l : LineId) (hs : P s) : P (s.giveUpUnclean l) := by
  unfold State.giveUpUnclean
  split
  · exact h.oldEpochFailure _ _ (h.uncleanDown _ (h.unwantClean l (h.leaveDirty l hs)))
  · exact hs

theorem orphanSlot (l : LineId) (i : SlotId) (hs : P s) : P (s.orphanSlot l i) := by
  unfold State.orphanSlot
  split
  · split
    · split <;> exact h.setSlot i _ hs
    · exact hs
  · exact hs

omit h in
theorem foldl {α : Type} (f : State → α → State) (xs : List α) (hf : ∀ t x, P t → P (f t x)) (hs : P s) :
    P (xs.foldl f s) := by
  induction xs generalizing s with
  | nil => exact hs
  | cons x xs ih => exact ih (hf s x hs)

theorem giveUpFailedWay (l : LineId) (hs : P s) : P (s.giveUpFailedWay l) := by
  unfold State.giveUpFailedWay
  dsimp only
  refine h.enterInvalid l (Stable.foldl _ _ (fun t i ht => h.orphanSlot l i ht) (h.fillQueue _ ?_))
  exact h.completeAll _ _ (h.setAccessQueue l _ (h.completeAll _ _ (h.setWatchers l _ (h.giveUpUnclean l hs))))

theorem fenceQueue (l : LineId) (hs : P s) : P (s.fenceQueue l) := h.completeAll _ _ (h.setAccessQueue l _ hs)

theorem salvage (l : LineId) (hs : P s) : P (s.salvage l) := by
  unfold State.salvage
  split
  · exact h.wantClean l hs
  · exact hs

theorem fenceSet (S : SetId) (w : WayId) (hs : P s) : P (s.fenceSet S w) := by
  unfold State.fenceSet
  dsimp only
  refine h.reportFault _ (Stable.foldl _ _ (fun t v ht => h.salvage _ ht) ?_)
  refine h.completeAll _ _ (h.setWaitList S _ (Stable.foldl _ _ (fun t v ht => h.fenceQueue _ ht) ?_))
  exact h.giveUpFailedWay _ (h.setFence S _ hs)

theorem askVictimClean (S : SetId) (hs : P s) : P (s.askVictimClean S) := by
  unfold State.askVictimClean
  split
  · exact h.wantClean _ hs
  · exact hs

theorem joinWaitList (S : SetId) (b : Bop) (hs : P s) : P (s.joinWaitList S b) :=
  h.askVictimClean S (h.setWaitList S _ hs)

theorem allocate (l : LineId) (b : Bop) (hs : P s) : P (s.allocate l b) := by
  unfold State.allocate
  split
  · exact h.startWrite l b (h.touchWay l (h.setLine l _ hs (le_refl _)))
  all_goals exact h.fillQueue _ (h.touchWay l (h.setLine l _ hs (le_refl _)))

theorem seekVictim (m : LookupMode) (b : Bop) (hs : P s) : P (s.seekVictim m b).1 := by
  unfold State.seekVictim
  dsimp only
  split
  · exact h.joinWaitList _ b hs
  · split
    · exact h.allocate _ b hs
    · split
      · exact hs
      · exact h.joinWaitList _ b hs

theorem lookupMiss (m : LookupMode) (b : Bop) (hs : P s) : P (s.lookupMiss m b).1 := by
  unfold State.lookupMiss
  split
  · split
    · exact h.completeBop _ _ hs
    · exact h.seekVictim m b hs
  · split
    · exact h.completeBop _ _ hs
    · exact h.seekVictim m b hs
  · exact h.seekVictim m b hs
  all_goals exact h.completeBop _ _ hs

theorem unpinHit (l : LineId) (b : Bop) (hs : P s) : P (s.unpinHit l b).1 := by
  unfold State.unpinHit
  dsimp only
  split
  · exact h.completeBop _ _ (h.setLine l _ hs (Nat.sub_le _ _))
  · exact h.completeBop _ _ hs

theorem flushHit (l : LineId) (b : Bop) (hs : P s) : P (s.flushHit l b).1 := by
  unfold State.flushHit
  dsimp only
  split
  · exact h.wantClean l (h.setWatchers l _ hs)
  · exact h.wantClean l (h.setWatchers l _ hs)
  · exact h.setWatchers l _ hs
  all_goals exact h.completeBop _ _ hs

theorem startBop (l : LineId) (b : Bop) (hs : P s) : P (s.startBop l b).1 := by
  unfold State.startBop
  split
  · exact h.startRead l b hs
  · exact h.startWrite l b hs
  · exact h.startPin l b hs
  · exact h.startDiscard l b hs
  all_goals exact hs

theorem queuedHit (l : LineId) (b : Bop) (hs : P s) : P (s.queuedHit l b).1 := by
  unfold State.queuedHit
  dsimp only
  split
  · split
    · split
      · exact h.startBop l b hs
      · exact h.completeBop _ _ hs
      · exact h.setAccessQueue l _ hs
    · exact h.setAccessQueue l _ hs
  · exact h.setAccessQueue l _ hs

theorem lookupBop (m : LookupMode) (b : Bop) (hs : P s) : P (s.lookupBop m b).1 := by
  unfold State.lookupBop
  dsimp only
  split
  · exact h.completeBop _ _ hs
  · split
    · exact h.completeBop _ _ (h.fenceSet _ _ hs)
    · split
      · split
        · exact h.unpinHit _ b hs
        · exact h.flushHit _ b hs
        all_goals exact h.queuedHit _ b hs
      · exact h.lookupMiss m b hs

theorem relookDetached (bs : List Bop) (hs : P s) : P (relookDetached bs s) := by
  induction bs generalizing s with
  | nil => exact hs
  | cons b bs ih => exact ih (h.lookupBop .detached b hs)

theorem serviceLoop (l : LineId) (n : Nat) (hs : P s) : P (serviceLoop l n s).1 := by
  induction n generalizing s with
  | zero => exact hs
  | succ n ih =>
    unfold Machine.serviceLoop
    dsimp only
    split
    · exact hs
    · split
      · split
        · exact hs
        · exact ih (h.completeBop _ _ (h.setAccessQueue l _ hs))
        · split
          · exact h.relookDetached _ (h.startBop l _ (h.setAccessQueue l _ hs))
          · exact ih (h.startBop l _ (h.setAccessQueue l _ hs))
      · exact hs

theorem serve (l : LineId) (hs : P s) : P (s.serve l).1 := h.serviceLoop l _ hs

theorem passLoop (S : SetId) (bs : List Bop) (hs : P s) : P (passLoop S bs s) := by
  induction bs generalizing s with
  | nil => exact hs
  | cons b bs ih =>
    unfold Machine.passLoop
    split
    · have hb := h.lookupBop .pass b (h.setWaitList S ((s.cacheSet S).waitList.filter (· != b)) hs)
      split
      · exact ih hs
      · next e => exact ih (by rw [e] at hb; exact hb)
      · next e => exact ih (h.serve _ (by rw [e] at hb; exact hb))
    · exact ih hs

theorem pass (S : SetId) (hs : P s) : P (s.pass S) := by
  unfold State.pass
  dsimp only
  split
  · exact hs
  · split
    · exact h.passLoop S _ hs
    · exact h.askVictimClean S (h.passLoop S _ hs)

theorem passAll (sets : List SetId) (hs : P s) : P (passAll sets s) := by
  induction sets generalizing s with
  | nil => exact hs
  | cons S Ss ih => exact ih (h.pass S hs)

theorem afterChange (l : LineId) (hs : P s) : P (s.afterChange l).1 := h.serve l hs

theorem lookupEvent (b : Bop) (hs : P s) : P (s.lookupEvent b).1 := by
  unfold State.lookupEvent
  have hb := h.lookupBop .fresh b hs
  split
  · next e => rw [e] at hb; exact hb
  · next e => exact h.serve _ (by rw [e] at hb; exact hb)
  · next e => rw [e] at hb; exact hb

theorem releaseRead (l : LineId) (hs : P s) : P (s.releaseRead l).1 := h.serve l (h.setLine l _ hs (le_refl _))

/-! ### The Write-Back Unit -/

theorem promoteWatchers (l : LineId) (hs : P s) : P (s.promoteWatchers l) := h.setWatchers l _ hs

theorem answerWatchers (l : LineId) (st : Status) (hs : P s) : P (s.answerWatchers l st) :=
  h.completeAll _ _ (h.setWatchers l _ hs)

theorem watchNext (l : LineId) (b : Bop) (hs : P s) : P (s.watchNext l b) := h.wantClean l (h.setWatchers l _ hs)

theorem beginDraw (l : LineId) (hs : P s) : P (s.beginDraw l) := by
  unfold State.beginDraw
  dsimp only
  have h₁ : P (((s.setLine l { s.line l with readers := (s.line l).readers + 1 }).leaveDirty l).unwantClean l) :=
    h.unwantClean l (h.leaveDirty l (h.setLine l _ hs (le_refl _)))
  refine h.promoteWatchers l ?_
  split
  · exact h.setLineState l _ h₁
  all_goals exact h₁

theorem beginRedraw (i : SlotId) (m : MediaSlot) (hs : P s) : P (s.beginRedraw i m) := by
  unfold State.beginRedraw
  dsimp only
  refine h.promoteWatchers _ (h.unwantClean _ ?_)
  split
  · exact h.setLineState _ _ (h.setLine _ _ (h.mediaSend _ (h.setSlot i _ hs)) (le_refl _))
  all_goals exact h.setLine _ _ (h.mediaSend _ (h.setSlot i _ hs)) (le_refl _)

theorem redrawWaiting (l : LineId) (hs : P s) : P (s.redrawWaiting l) := by
  unfold State.redrawWaiting
  split
  · split
    · exact h.beginRedraw _ _ hs
    · exact hs
  · exact hs

theorem releaseExclusive (l : LineId) (hs : P s) : P (s.releaseExclusive l).1 :=
  h.serve l (h.redrawWaiting l (h.setLine l _ hs (le_refl _)))

theorem salvageIfFenced (l : LineId) (hs : P s) : P (s.salvageIfFenced l) := by
  unfold State.salvageIfFenced
  split
  · exact h.wantClean l hs
  · exact hs

theorem commitLine (l : LineId) (hs : P s) : P (s.commitLine l) := by
  unfold State.commitLine
  dsimp only
  split
  · exact h.salvageIfFenced l (h.joinDirty l (h.uncleanUp _ (h.setLineState l _ hs)))
  · exact h.salvageIfFenced l (h.joinDirty l (h.uncleanUp _ (h.setLineState l _ hs)))
  · exact h.setLineState l _ hs
  all_goals exact hs

theorem endFlushAll (st : Status) (hs : P s) : P (s.endFlushAll st) := by
  unfold State.endFlushAll
  dsimp only
  split
  · exact h.finish _ _ _ (h.flushAllQueue _ (h.activeFlushAll none hs))
  · exact h.activeFlushAll none hs

theorem activateLoop (n : Nat) (hs : P s) : P (activateLoop n s) := by
  induction n generalizing s with
  | zero => exact hs
  | succ n ih =>
    unfold Machine.activateLoop
    dsimp only
    split
    · exact hs
    · split
      · exact ih (h.endFlushAll _ (h.epoch _ _ hs))
      · exact h.epoch _ _ hs

theorem judgeActivation (hs : P s) : P s.judgeActivation := h.activateLoop _ hs

theorem judgeFlushAll (hs : P s) : P s.judgeFlushAll := by
  unfold State.judgeFlushAll
  split
  · split
    · exact h.judgeActivation (h.endFlushAll _ hs)
    · exact hs
  · exact hs

theorem cutFlushAll (st : Status) (hs : P s) : P (s.cutFlushAll st) := by
  unfold State.cutFlushAll
  split
  · exact h.walk _ (h.endFlushAll st hs)
  · exact hs

theorem cleanSucceeds (l : LineId) (hs : P s) : P (s.cleanSucceeds l).1 := by
  unfold State.cleanSucceeds
  dsimp only
  refine h.afterChange l (h.answerWatchers l _ ?_)
  split
  · split
    · exact h.setFence _ _ (h.uncleanDown _ (h.setLineState l _ hs))
    · exact h.uncleanDown _ (h.setLineState l _ hs)
  · exact h.salvageIfFenced l (h.joinDirty l (h.uncleanUp _ (h.uncleanDown _ (h.setLineState l _ hs))))
  all_goals exact hs

theorem dropLine (l : LineId) (hs : P s) : P (s.dropLine l) :=
  h.setFence _ _ (h.enterInvalid l (h.completeAll _ _ (h.setWatchers l _ (h.giveUpUnclean l hs))))

theorem returnDirty (l : LineId) (st : Status) (hs : P s) : P (s.returnDirty l st) := by
  have back (b : Nat) (e : Epoch) : P (State.joinDirty (if e = s.writeBack.currentEpoch then s.setLineState l (.dirty b e)
      else (((s.setLineState l (.dirty b s.writeBack.currentEpoch)).uncleanDown e).uncleanUp
        s.writeBack.currentEpoch).flushAllFailure st) l) := by
    refine h.joinDirty l ?_
    split
    · exact h.setLineState l _ hs
    · exact h.flushAllFailure st (h.uncleanUp _ (h.uncleanDown _ (h.setLineState l _ hs)))
  unfold State.returnDirty
  dsimp only
  split
  · exact back _ _
  · exact back _ _
  all_goals exact hs

theorem failClean (l : LineId) (st : Status) (hs : P s) : P (s.failClean l st) := by
  unfold State.failClean
  refine h.serve l ?_
  split
  · exact h.dropLine l hs
  · exact h.answerWatchers l st (h.returnDirty l st hs)

theorem retagLine (e : Epoch) (l : LineId) (hs : P s) : P (s.retagLine e l) := by
  unfold State.retagLine
  dsimp only
  split
  · exact h.uncleanUp _ (h.uncleanDown _ (h.setLineState l _ hs))
  · exact h.setLineState l _ hs

theorem checkSet (S : SetId) (hs : P s) : P (s.checkSet S) := by
  unfold State.checkSet
  split
  · exact hs
  · split
    · exact h.fenceSet _ _ hs
    · exact hs

theorem walkVisit (w : RetagWalk) (hs : P s) : P (s.walkVisit w) := by
  unfold State.walkVisit
  dsimp only
  have h₁ := Stable.foldl (fun s v => s.retagLine w.epoch ⟨w.nextSet, v⟩) (List.finRange 8)
    (fun t v ht => h.retagLine _ _ ht) (h.checkSet w.nextSet hs)
  split
  · exact h.judgeActivation (h.walk _ h₁)
  · exact h.walk _ h₁

theorem judgeUnfenceSet (S : SetId) (hs : P s) : P (s.judgeUnfenceSet S) := by
  unfold State.judgeUnfenceSet
  split
  · split
    · exact h.finish _ _ _ (h.reinit s S hs)
    · exact hs
  · exact hs

theorem judgeUnfence (hs : P s) : P s.judgeUnfence := Stable.foldl _ _ (fun _ _ ht => h.judgeUnfenceSet _ ht) hs

/-! ### The Media Port -/

theorem issueFill (i : SlotId) (l : LineId) (hs : P s) : P (s.issueFill i l) :=
  h.mediaSend _ (h.setSlot i _ (h.fillQueue _ hs))

theorem issueClean (i : SlotId) (l : LineId) (hs : P s) : P (s.issueClean i l) :=
  h.afterChange l (h.beginDraw l (h.mediaSend _ (h.setSlot i _ hs)))

theorem issueOne {t : State} {d : Option SetId} (hs : P s) (ht : s.issueOne = some (t, d)) : P t := by
  obtain ⟨i, l, -, ⟨h₁, -⟩ | ⟨h₁, -⟩⟩ := State.issueOne_cases ht
  · rw [h₁]; exact h.issueFill i l hs
  · rw [h₁]; exact h.issueClean i l hs

theorem issueLoop (n : Nat) (passed changed : List SetId) (hs : P s) : P (issueLoop n passed changed s) := by
  induction n generalizing s passed changed with
  | zero => exact h.judgeFlushAll hs
  | succ n ih =>
    unfold Machine.issueLoop
    dsimp only
    split
    · next r e => exact ih _ _ (h.issueOne (t := r.1) (d := r.2) (h.judgeFlushAll hs) e)
    · split
      · exact h.judgeFlushAll hs
      · exact ih _ _ (h.passAll _ (h.judgeFlushAll hs))

theorem issueArbiter (passed : List SetId) (hs : P s) : P (s.issueArbiter passed) := h.issueLoop _ _ _ hs

theorem settleAfter (passed : List SetId) (hs : P s) : P (s.settleAfter passed) :=
  h.settleHost (h.judgeUnfence (h.issueArbiter passed hs))

theorem settle (hs : P s) : P s.settle := h.settleAfter [] hs

theorem settleSets (changed : List SetId) (hs : P s) : P (s.settleSets changed) := h.settleAfter _ (h.passAll _ hs)

theorem settleIf (b : Bool) (S : SetId) (hs : P s) : P (s.settleIf b S) := h.settleSets _ hs

theorem failQueued (st : Status) (bs : List Bop) (hs : P s) : P (failQueued st bs s) := by
  induction bs generalizing s with
  | nil => exact hs
  | cons b bs ih => exact ih (h.completeBop b _ hs)

theorem failFill (l : LineId) (st : Status) (hs : P s) : P (s.failFill l st).1 := by
  unfold State.failFill
  dsimp only
  split
  · exact h.serve l (h.enterInvalid l hs)
  · split
    · split
      · exact h.startWrite l _ (h.setLineState l _ (h.setAccessQueue l _ (h.failQueued st _ (h.setAccessQueue l _ hs))))
      · exact h.enterInvalid l (h.failQueued st _ (h.setAccessQueue l _ hs))
    all_goals exact hs

theorem retry (i : SlotId) (m : MediaSlot) (hs : P s) : P (s.retry i m).1 := by
  unfold State.retry
  split
  · exact h.mediaSend _ (h.setSlot i _ hs)
  · split
    · exact h.setSlot i _ hs
    · dsimp only
      split
      · exact h.beginRedraw i m hs
      · exact h.afterChange _ (h.beginRedraw i m hs)

theorem failSlot (i : SlotId) (m : MediaSlot) (st : Status) (hs : P s) : P (s.failSlot i m st).1 := by
  unfold State.failSlot
  dsimp only
  have h₁ : P (if st = .offline then s else s.reportFault (.media m.block m.kind st)) := by
    split
    · exact hs
    · exact h.reportFault _ hs
  split
  · exact h.failFill _ _ (h.setSlot i _ h₁)
  · exact h.failClean _ _ (h.setSlot i _ h₁)

/-- A fill's landing writes its frame besides. -/
theorem fillLands (hf : ∀ s l d, P s → P (s.setFrame l d)) (l : LineId) (d : List Byte) (hs : P s) :
    P (s.fillLands l d).1 := by
  unfold State.fillLands
  dsimp only
  split
  · exact h.afterChange l (h.enterInvalid l (hf s l d hs))
  · split
    · exact h.afterChange l (h.touchWay l (h.setLineState l _ (hf s l d hs)))
    all_goals exact hf s l d hs

theorem actOnResponse (hf : ∀ s l d, P s → P (s.setFrame l d)) (i : SlotId) (m : MediaSlot) (r : Judged) (hs : P s) :
    P (s.actOnResponse i m r).1 := by
  unfold State.actOnResponse
  split
  · exact h.setSlot i _ hs
  · split
    · exact h.fillLands hf _ _ (h.setSlot i _ hs)
    · exact h.cleanSucceeds _ (h.setSlot i _ hs)
    · exact h.failSlot i m _ hs
    · split
      · exact h.setSlot i _ hs
      · exact h.failSlot i m _ hs

theorem abandonDraw (m : MediaSlot) (hs : P s) : P (s.abandonDraw m).1 := by
  unfold State.abandonDraw
  split
  · exact h.releaseRead _ hs
  · exact hs

theorem loseSlot (i : SlotId) (k : SlotLosses) (hs : P s) : P (s.loseSlot i k).1 := by
  unfold State.loseSlot
  split
  · exact hs
  · next m _ =>
    dsimp only
    split
    · exact h.setSlot i _ (h.abandonDraw m hs)
    · exact h.failSlot i m _ (h.abandonDraw m hs)

theorem loseSlots (is : List SlotId) (k : SlotLosses) (hs : P s) : P (loseSlots is (s, k)).1 := by
  induction is generalizing s k with
  | nil => exact hs
  | cons i is ih => exact ih _ (h.loseSlot i k hs)

theorem loseFills (ls : List LineId) (sets : List SetId) (hs : P s) : P (loseFills ls (s, sets)).1 := by
  induction ls generalizing s sets with
  | nil => exact hs
  | cons l ls ih =>
    unfold Machine.loseFills
    split
    · exact ih _ (h.failFill l _ (h.fillQueue _ hs))
    · exact ih _ hs

theorem loseFlushAll (hs : P s) : P s.loseFlushAll := by
  unfold State.loseFlushAll
  split
  · exact h.cutFlushAll _ hs
  · exact hs

theorem dropDirty (S : SetId) (hs : P s) : P (s.dropDirty S) := by
  unfold State.dropDirty
  split
  · refine Stable.foldl _ _ (fun t w ht => ?_) hs
    split
    · exact h.dropLine _ ht
    · exact ht
  · exact hs

/-- The link loss takes the link DOWN besides. -/
theorem loseLink (hd : ∀ s, P s → P { s with media := { s.media with link := .down } }) (r : LinkLossReason) (hs : P s) :
    P (s.loseLink r) := by
  unfold State.loseLink
  dsimp only
  exact h.reportFault _ (Stable.foldl _ _ (fun t e ht => h.dropDirty _ ht)
    (h.loseFlushAll (h.passAll _ (h.loseFills _ [] (h.passAll _ (h.loseSlots _ _ (hd s hs)))))))

/-! ### Intake and ABORT -/

theorem takeArrival (a : Arrival) (hi : P { s with rings := { s.rings with intake := a.rest } }) : P (s.takeArrival a) :=
  h.setCtx _ _ hi

/-- An arrival keeps what the removal of its record, its dispatch and the end of its event keep. -/
theorem arrive (hi : ∀ q, s.arrival ≠ none → P { s with rings := { s.rings with intake := q } }) (k : CommandKind)
    (dispatch : State → CtxId → Record → State) (finish : State → State)
    (hd : ∀ t c r, P t → fieldsValid k r = true → P (dispatch t c r)) (hf : ∀ t, P t → P (finish t)) (hs : P s) :
    P (s.arrive k dispatch finish) := by
  unfold State.arrive
  split
  · next a ha =>
    have hi := h.takeArrival a (hi a.rest (by rw [ha]; exact Option.some_ne_none a))
    split
    · dsimp only
      split
      · next hst =>
        refine hf _ (hd _ _ _ hi ?_)
        unfold State.intakeStatus at hst
        split at hst
        · cases hst
        · next hv => simpa using hv
      · exact h.settleHost (h.finish _ _ _ hi)
    · exact hs
  · exact hs

theorem dispatchRange (c : CtxId) (r : Record) (hs : P s) : P (dispatchRange s c r) := by
  unfold Machine.dispatchRange
  split
  · exact h.beginSplitting c (h.setCtx c _ hs)
  · exact hs

theorem arriveRange (hi : ∀ q, s.arrival ≠ none → P { s with rings := { s.rings with intake := q } }) (k : CommandKind)
    (hs : P s) : P (s.arriveRange k) :=
  h.arrive hi k _ _ (fun _ c r ht _ => h.dispatchRange c r ht) (fun _ ht => h.settleHost ht) hs

theorem abortUnsplit (c : CtxId) (hs : P s) : P (s.abortUnsplit c) := by
  unfold State.abortUnsplit
  split
  · dsimp only
    split
    · exact h.endSplitting c (h.commands _ _ (h.setCtx c _ hs))
    · exact hs
  · exact hs

theorem abortAwaiting (c : CtxId) (hs : P s) : P (s.abortAwaiting c) := h.completeAll _ _ (h.commands s _ hs)

theorem abortQueued (c : CtxId) (l : LineId) (hs : P s) : P (s.abortQueued c l).1 := by
  unfold State.abortQueued
  dsimp only
  split
  · exact h.serve l (h.completeAll _ _ (h.setAccessQueue l _ hs))
  · exact hs

theorem abortWaiting (c : CtxId) (S : SetId) (hs : P s) : P (s.abortWaiting c S) := by
  unfold State.abortWaiting
  dsimp only
  split
  · exact h.completeAll _ _ (h.setWaitList S _ hs)
  · exact hs

theorem abortWatching (c : CtxId) (l : LineId) (hs : P s) : P (s.abortWatching c l) := by
  unfold State.abortWatching
  dsimp only
  split
  · exact h.completeAll _ _ (h.setWatchers l _ hs)
  · exact hs

theorem abortQueuedWays (c : CtxId) (S : SetId) (ws : List WayId) (b : Bool) (hs : P s) :
    P (abortQueuedWays c S ws (s, b)).1 := by
  induction ws generalizing s b with
  | nil => exact hs
  | cons w ws ih => exact ih _ (h.abortQueued c _ hs)

theorem abortQueuedSets (c : CtxId) (Ss ch : List SetId) (hs : P s) : P (abortQueuedSets c Ss (s, ch)).1 := by
  induction Ss generalizing s ch with
  | nil => exact hs
  | cons S Ss ih => exact ih _ (h.abortQueuedWays c S _ false hs)

theorem abortRange (c : CtxId) (cmd : Command) (hs : P s) : P (s.abortRange c cmd).1 := by
  unfold State.abortRange
  dsimp only
  refine Stable.foldl _ _ (fun t S ht => Stable.foldl _ _ (fun u w hu => h.abortWatching c _ hu) ht) ?_
  refine Stable.foldl _ _ (fun t S ht => h.abortWaiting c S ht) ?_
  exact h.abortQueuedSets c _ [] (h.abortAwaiting c (h.abortUnsplit c hs))

theorem abortFlushAll (c : CtxId) (hs : P s) : P (s.abortFlushAll c) := by
  unfold State.abortFlushAll
  split
  · exact h.cutFlushAll _ hs
  · exact h.judgeActivation (h.finish c _ _ (h.flushAllQueue _ hs))

theorem abortNotice (c : CtxId) (hs : P s) : P (s.abortNotice c) := h.finish c _ _ (h.commands s _ hs)

theorem abortFound (c : CtxId) (hs : P s) : P (s.abortFound c).1 := by
  unfold State.abortFound
  split
  · split
    · exact hs
    · dsimp only
      split
      · exact h.abortFlushAll c (h.setCtx c _ hs)
      · exact h.abortNotice c (h.setCtx c _ hs)
      · exact h.abortRange c _ (h.setCtx c _ hs)
      · exact h.setCtx c _ hs
  · exact hs

end Stable

end Sys2Proof.Machine
end

