-- ==== Sys2Proof/Laws/Exec.lean ====
section
/-! SUPPORT. What whole commands can do to the state. `StableExec D P` says that a property survives the changes of `Stable` and
those that only whole commands make; then every command keeps it. With `D` the property says besides that nothing arrives, and
no ring exists, while the engine is DISABLED. -/

namespace Sys2Proof.Machine

/-- The changes that whole commands are built from, beyond those of `Stable`. -/
structure StableExec (D : Prop) (P : State → Prop) : Prop extends Stable P where
  quiet : ∀ s, D → P s → s.engine.state = .disabled → s.arrival = none ∧ ∀ n, s.sr n = none
  pend : ∀ s q, P s → P { s with pending := q }
  frame : ∀ s l d, P s → P (s.setFrame l d)
  down : ∀ s, P s → P { s with media := { s.media with link := .down } }
  up : ∀ s c, P s → capacityValid c = true → P { s with media := { s.media with link := .up, capacity := c } }
  intake : ∀ s q, P s → (D → s.engine.state ≠ .disabled) → P { s with rings := { s.rings with intake := q } }
  addSr : ∀ s n r, P s → (D → s.engine.state ≠ .disabled) → fieldsValid .createSr r = true →
    P (s.setSr n (some (createdSr r)))
  addCr : ∀ s n r, P s → (D → s.engine.state ≠ .disabled) → fieldsValid .createCr r = true →
    P (s.setCr n (some (createdCr r)))
  srSame : ∀ s n q r, P s → s.sr n = some q → r.entries = q.entries →
    (0 < q.entries → r.head < q.entries ∨ r.head = q.head) → (0 < q.entries → r.tail < q.entries ∨ r.tail = q.tail) →
    P (s.setSr n (some r))
  crSame : ∀ s n q r, P s → s.cr n = some q → r.entries = q.entries →
    (0 < q.entries → r.head < q.entries ∨ r.head = q.head) → (0 < q.entries → r.tail < q.entries ∨ r.tail = q.tail) →
    P (s.setCr n (some r))
  crGone : ∀ s n, P s → P (s.setCr n none)
  marks : ∀ s a b, P s → a < b → b ≤ 32768 →
    P (State.judgePressure { s with writeBack := { s.writeBack with highMark := b, lowMark := a } })
  params : ∀ s a b, P s → 1 ≤ a → a ≤ 10000 → b ≤ 7 → P { s with media := { s.media with timeout := a, retryLimit := b } }
  soft : ∀ s, P s → P s.softReset
  reset : P State.reset
  hostPort : ∀ s x, P s → P { s with host := x }
  flush : ∀ s b, P s → P { s with engine := { s.engine with flushOnQuiesce := b } }
  enabled : ∀ s, P s → s.engine.state = .disabled → s.adminRegistersValid = true →
    P { s.createAdminPair with engine := { s.engine with state := .running, enableRefused := false } }
  refused : ∀ s, P s → P { s with engine := { s.engine with enableRefused := true } }
  quiescing : ∀ s, P s → s.engine.state = .running → P s.enterQuiescing
  running : ∀ s, P s → s.engine.state = .quiescing ∨ s.engine.state = .quiesced → P s.returnToRunning

namespace StableExec

variable {D : Prop} {P : State → Prop} (h : StableExec D P) {s t : State}
include h

/-- A state with a record that arrives is not DISABLED. -/
theorem awake (hs : P s) (ha : s.arrival ≠ none) : D → s.engine.state ≠ .disabled :=
  fun d e => ha (h.quiet s d hs e).1

theorem intakeTaken (hs : P s) (q : List FetchedRecord) (ha : s.arrival ≠ none) :
    P { s with rings := { s.rings with intake := q } } := h.intake s q hs (h.awake hs ha)

theorem writeControl (w : ControlWrite) (hs : P s) : P (s.writeControl w) := by
  unfold State.writeControl
  split
  · exact h.soft s hs
  · have hf := h.flush s w.flushOnQuiesce hs
    dsimp only
    split
    · next hd =>
      split
      · unfold State.tryEnable
        split
        · next hv => exact h.fetchArbiter (h.enabled _ hf hd hv)
        · exact h.refused _ hf
      · exact hf
    · next hd =>
      split
      · exact h.settle (h.quiescing _ hf hd)
      · exact hf
    · next hd =>
      split
      · exact h.settle hf
      · exact h.fetchArbiter (h.running _ hf (.inl hd))
    · next hd =>
      split
      · exact hf
      · exact h.fetchArbiter (h.running _ hf (.inr hd))
    · exact hf

omit h in
theorem ifUsable (hs : P s) (ht : P t) : P (s.ifUsable t) := by
  unfold State.ifUsable; split
  · exact ht
  · exact hs

theorem writeSrTail (n : RingId) (v : Nat) (hs : P s) : P (s.writeSrTail n v) := by
  unfold State.writeSrTail
  split
  · next q hq =>
    split
    · split
      · next hv => exact h.fetchArbiter (h.srSame s n q _ hs hq rfl (fun _ => .inr rfl) (fun _ => .inl hv))
      · exact h.settleHost (h.faultSr _ _ hs)
    · exact hs
    · exact hs
  · exact hs

theorem writeCrHead (n : RingId) (v : Nat) (hs : P s) : P (s.writeCrHead n v) := by
  unfold State.writeCrHead
  split
  · next q hq =>
    split
    · split
      · next hv =>
        refine h.fetchArbiter (h.crSame s n q _ hs hq rfl (fun h0 => .inl ?_) (fun _ => .inr rfl))
        simp [CompletionRing.inSpan] at hv; exact hv.1
      · exact h.settleHost (h.faultCr _ _ hs)
    · exact hs
  · exact hs

theorem writeAdmin (hp : HostPort) (hs : P s) : P (s.writeAdmin hp) := by
  unfold State.writeAdmin; split
  · exact h.hostPort s hp hs
  · exact hs

theorem writeWord (o v : Nat) (hs : P s) : P (s.writeWord o v) := by
  unfold State.writeWord
  repeat' split
  all_goals first | exact h.writeControl _ hs | exact h.writeAdmin _ hs | exact h.writeSrTail _ _ hs | exact h.writeCrHead _ _ hs | exact hs

theorem writeWindow (o z : Nat) (v : BitVec 64) (hs : P s) : P (s.writeWindow o z v) := by
  unfold State.writeWindow
  repeat' split
  all_goals first | exact h.writeAdmin _ hs | exact h.writeWord _ _ hs | exact h.writeWord _ _ (h.writeWord _ _ hs) | exact hs

theorem sendInterrupt (n : RingId) (p : Bool) (hs : P s) : P (s.sendInterrupt n p) := by
  unfold State.sendInterrupt
  split
  · next r hr =>
    unfold State.emit
    have h1 := h.crSame s n r { r with unsignalled := 0, timer := none } hs hr rfl (fun _ => .inr rfl) (fun _ => .inr rfl)
    split
    · exact h.hostWrite _ h1
    · exact h.host _ _ _ _ _ _ h1
  · exact hs

theorem setCrOptions (n : RingId) (q : CompletionRing) (r : Record) (p : Bool) (hs : P s) (hq : s.cr n = some q) : P (s.setCrOptions n q r p) := by
  unfold State.setCrOptions
  dsimp only
  have h1 := h.crSame s n q (q.takeOptions r) hs hq rfl (fun _ => .inr rfl) (fun _ => .inr rfl)
  have h2 : P (if (q.takeOptions r).messageDue then (s.setCr n (some (q.takeOptions r))).sendInterrupt n p else s.setCr n (some (q.takeOptions r))) := by
    split
    · exact h.sendInterrupt n p h1
    · exact h1
  split
  · next q2 hq2 => exact h.crSame _ n q2 _ h2 hq2 rfl (fun _ => .inr rfl) (fun _ => .inr rfl)
  · exact h2

theorem reserve (n : RingId) (hs : P s) : P (s.reserve n).1 := by
  unfold State.reserve
  split
  · next r hr =>
    split
    · exact h.crSame s n r _ hs hr rfl (fun _ => .inr rfl) fun _ => .inr rfl
    · exact hs
  · exact hs

omit h in
theorem reserve_engine (n : RingId) : (s.reserve n).1.engine = s.engine := by
  unfold State.reserve
  split
  · split <;> rfl
  · rfl

theorem acceptFetch (f : Fetch) (q : SubmissionRing) (r : Record) (hs : P s) (hq : s.sr f.sr = some q) :
    P (s.acceptFetch f q r) := by
  unfold State.acceptFetch
  dsimp only
  have h₁ : P (s.setSr f.sr (some { q with head := q.nextHead, fetchInFlight := false })) := by
    refine h.srSame s f.sr q _ hs hq rfl (fun h0 => .inl ?_) fun _ => .inr rfl
    show (if _ then _ else _) < _
    split <;> omega
  refine h.fetchArbiter (h.intake _ _ (h.setCtx _ _ (h.reserve _ h₁)) fun d e => ?_)
  have hn := (h.quiet s d hs ?_).2 f.sr
  · rw [hq] at hn
    cases hn
  · rw [← e]
    exact congrArg EngineControl.state (reserve_engine (s := s.setSr f.sr _) q.boundCr).symm

theorem endFetch (r : Option Record) (hs : P s) : P (s.endFetch r) := by
  unfold State.endFetch
  split
  · next f hf =>
    have h₀ := h.arbiter s none s.rings.currentSr s.rings.grantsUsed hs
    dsimp only
    split
    · next q hq =>
      have hfree := h.freeContext f.ctx (h.sr _ f.sr q q.state false h₀ hq)
      split
      · exact h.settleHost hfree
      · exact h.acceptFetch f q _ h₀ hq
      · exact h.acceptFetch f q _ h₀ hq
      · exact h.settleHost (h.faultSr _ _ hfree)
      · exact h.settleHost (h.faultSr _ _ hfree)
    · exact h₀
  · exact hs

theorem postSucceeds (n : RingId) (p : Bool) (hs : P s) : P (s.postSucceeds n p) := by
  unfold State.postSucceeds
  split
  · next r hr =>
    split
    · split
      · dsimp only
        have h1 : P (s.setCr n (some r.posted)) := by
          refine h.crSame s n r _ hs hr ?_ (fun _ => .inr ?_) (fun h0 => ?_)
          all_goals (unfold CompletionRing.posted CompletionRing.countPost CompletionRing.advance)
          · repeat' split
            all_goals rfl
          · repeat' split
            all_goals rfl
          · repeat' split
            all_goals (dsimp only at *; (left; omega))
        refine h.settleHost (h.freeContext _ (h.issueRecord _ ?_))
        split
        · exact h.sendInterrupt n p h1
        · exact h1
      · exact h.settleHost (h.freeContext _ (h.crSame s n r _ hs hr rfl (fun _ => .inr rfl) (fun _ => .inr rfl)))
    · exact hs
  · exact hs

theorem postFails (n : RingId) (hs : P s) : P (s.postFails n) := by
  unfold State.postFails
  split
  · next r hr =>
    split
    · dsimp only
      have h1 := h.setCtx ‹_› .free (h.crSame s n r r.unposted hs hr rfl (fun _ => .inr rfl) (fun _ => .inr rfl))
      refine h.settleHost (h.judgeDelete _ ?_)
      split
      · exact h.faultCr _ _ h1
      · exact h.reportFault _ h1
    · exact hs
  · exact hs

theorem commit (i : ChannelId) (x : Transfer) (hs : P s) : P (s.commit i x) := by
  have h1 := h.commitLine x.line (h.touchWay x.line (h.frame s x.line (x.gather.map Prod.snd) hs))
  unfold State.commit; dsimp only
  generalize ((s.setFrame x.line (x.gather.map Prod.snd)).touchWay x.line).commitLine x.line = u at h1 ⊢
  refine h.settleIf _ _ (h.releaseChannel _ ?_)
  cases x.bop.durable
  · exact h.completeBop _ _ (h.releaseExclusive _ h1)
  · exact h.releaseExclusive _ (h.watchNext _ _ h1)

theorem writeInData_keeps (i : ChannelId) (p : Nat) (d : List Byte) (hs : P s) : P (match s.writeInOn i with | some t => s.dataReturns i t p d | none => s) := by
    split
    · next x _ =>
      unfold State.dataReturns State.settleChannel; dsimp only
      repeat' split
      · exact hs
      · exact h.releaseChannel _ hs
      · exact h.setChannel _ _ hs
      · unfold State.commitNothing; dsimp only
        exact h.settleIf _ _ (h.releaseChannel _ (h.completeBop _ _ (h.releaseExclusive _ hs)))
      · exact h.commit _ _ hs
      · exact h.setChannel _ _ hs
    · exact hs

theorem writeInReadFailed_keeps (i : ChannelId) (n : Nat) (hs : P s) : P (match s.writeInOn i with | some t => s.readFails i t n | none => s) := by
    split
    · next x _ =>
      unfold State.readFails
      split
      · exact hs
      split
      · unfold State.settleChannel; split
        · exact h.releaseChannel _ hs
        · exact h.setChannel _ _ hs
      · unfold State.writeInFails; dsimp only
        refine h.settleIf _ _ ?_
        have h1 : P (s.releaseFailed x.line).1 := by
          unfold State.releaseFailed; split
          · exact h.relookDetached _ (h.enterInvalid _ (h.setLine _ _ hs (le_refl _)))
          · exact h.releaseExclusive _ hs
        have h2 := h.reportFault (s.transferFault x .writeIn) (h.completeBop x.bop (if s.gaveUp x.line then .fenced else .hostBusError) h1)
        unfold State.settleChannel; split
        · exact h.releaseChannel _ h2
        · exact h.setChannel _ _ h2
    · exact hs

theorem announce_keeps (m : List Byte) (hs : P s) : P (s.takeAnnounce m) := by
    unfold State.takeAnnounce
    have up : ∀ u c, P u → P (u.linkUp c) := by
      intro u c hu; unfold State.linkUp; split
      · next hc => exact h.up _ _ hu hc
      · exact hu
    repeat' split
    · exact h.settle (up _ _ hs)
    · exact hs
    · exact h.settle (up _ _ (h.loseLink h.down _ hs))
    all_goals exact hs

theorem response_keeps (m : List Byte) (hs : P s) : P (s.takeResponse m) := by
    unfold State.takeResponse
    repeat' split
    · exact h.settleIf _ _ (h.actOnResponse h.frame _ _ _ hs)
    all_goals exact hs

theorem exec_keeps (c : Instr) (hs : P s) (ht : exec c s = .next t) : P t := by
  have key : ∀ u, P u → (Host.Outcome.next u : Host.Outcome State Fault Refusal) = .next t → P t := by
    intro u hu e; cases e; exact hu
  unfold exec at ht
  cases c <;> dsimp only at ht <;> refine key _ ?_ ht
  case lookup c o => 
    unfold State.lookUp; split
    · exact h.settleIf _ _ (h.lookupEvent _ (h.commands s _ hs))
    · exact hs
  case read => exact h.arriveRange (h.intakeTaken hs) _ hs
  case write => exact h.arriveRange (h.intakeTaken hs) _ hs
  case flush => exact h.arriveRange (h.intakeTaken hs) _ hs
  case discard => exact h.arriveRange (h.intakeTaken hs) _ hs
  case pin => exact h.arriveRange (h.intakeTaken hs) _ hs
  case unpin => exact h.arriveRange (h.intakeTaken hs) _ hs
  case flushAll =>
    exact h.arrive (h.intakeTaken hs) _ _ _ (fun u c r hu _ => h.judgeActivation (h.flushAllQueue _ hu)) (fun u hu => h.settle hu) hs
  case createSubmissionRing =>
    unfold State.arrive
    split
    · next a ha =>
      have hn : s.arrival ≠ none := by rw [ha]; exact Option.some_ne_none a
      have ht' := h.takeArrival a (h.intakeTaken hs a.rest hn)
      split
      · dsimp only
        split
        · next hst =>
          refine h.settleHost ?_
          unfold dispatchCreateSubmissionRing; dsimp only; split
          · exact h.finish _ _ _ ht'
          · refine h.finish _ _ _ (h.addSr _ _ _ ht' ?_ ?_)
            · show D → s.engine.state ≠ .disabled
              exact h.awake hs hn
            · unfold State.intakeStatus at hst
              split at hst
              · cases hst
              · next hv => simpa using hv
        · exact h.settleHost (h.finish _ _ _ ht')
      · exact hs
    · exact hs
  case createCompletionRing =>
    unfold State.arrive
    split
    · next a ha =>
      have hn : s.arrival ≠ none := by rw [ha]; exact Option.some_ne_none a
      have ht' := h.takeArrival a (h.intakeTaken hs a.rest hn)
      split
      · dsimp only
        split
        · next hst =>
          refine h.settleHost ?_
          unfold dispatchCreateCompletionRing; dsimp only; split
          · exact h.finish _ _ _ ht'
          · refine h.finish _ _ _ (h.addCr _ _ _ ht' ?_ ?_)
            · show D → s.engine.state ≠ .disabled
              exact h.awake hs hn
            · unfold State.intakeStatus at hst
              split at hst
              · cases hst
              · next hv => simpa using hv
        · exact h.settleHost (h.finish _ _ _ ht')
      · exact hs
    · exact hs
  case deleteSubmissionRing =>
    refine h.arrive (h.intakeTaken hs) _ _ _ (fun u c r hu hv => ?_) (fun u hu => h.settleHost hu) hs
    unfold dispatchDeleteSubmissionRing; dsimp only; split
    · exact h.finish _ _ _ hu
    · split
      · next q hq =>
        split
        · exact h.judgeDelete _ (h.sr _ _ q _ q.fetchInFlight hu hq)
        · exact h.judgeDelete _ (h.sr _ _ q _ q.fetchInFlight hu hq)
        · exact h.finish _ _ _ hu
      · exact h.finish _ _ _ hu
  case deleteCompletionRing =>
    refine h.arrive (h.intakeTaken hs) _ _ _ (fun u c r hu hv => ?_) (fun u hu => h.settleHost hu) hs
    unfold dispatchDeleteCompletionRing; dsimp only; split
    · exact h.finish _ _ _ hu
    · exact h.finish _ _ _ (h.crGone u _ hu)
  case setRingOptions p =>
    refine h.arrive (h.intakeTaken hs) _ _ _ (fun u c r hu hv => ?_) (fun u hu => h.settleHost hu) hs
    unfold dispatchSetRingOptions; dsimp only; split
    · split
      · next q hq =>
        split
        · exact h.finish _ _ _ hu
        · exact h.finish _ _ _ (h.srSame u _ q _ hu hq rfl (fun _ => .inr rfl) (fun _ => .inr rfl))
      · exact h.finish _ _ _ hu
    · split
      · next q hq =>
        split
        · exact h.finish _ _ _ hu
        · exact h.finish _ _ _ (h.setCrOptions _ q r p hu hq)
      · exact h.finish _ _ _ hu
  case setCleaner =>
    refine h.arrive (h.intakeTaken hs) _ _ _ (fun u c r hu hv => ?_) (fun u hu => h.settle hu) hs
    unfold dispatchSetCleaner
    simp [fieldsValid] at hv
    exact h.finish _ _ _ (h.marks u _ _ hu (by tauto) (by tauto))
  case setMediaParams =>
    refine h.arrive (h.intakeTaken hs) _ _ _ (fun u c r hu hv => ?_) (fun u hu => h.settleHost hu) hs
    unfold dispatchSetMediaParams
    simp [fieldsValid] at hv
    exact h.finish _ _ _ (h.params u _ _ hu (by tauto) (by tauto) (by tauto))
  case reportGeometry =>
    exact h.arrive (h.intakeTaken hs) _ _ _ (fun u c r hu hv => h.hostWrite _ hu) (fun u hu => h.settleHost hu) hs
  case awaitNotice =>
    refine h.arrive (h.intakeTaken hs) _ _ _ (fun u c r hu hv => ?_) (fun u hu => h.settleHost hu) hs
    unfold dispatchAwaitNotice; split
    · exact h.deliver _ _ hu
    · exact h.commands _ _ hu
  case readSet =>
    exact h.arrive (h.intakeTaken hs) _ _ _ (fun u c r hu hv => h.hostWrite _ hu) (fun u hu => h.settleHost hu) hs
  case unfenceSet =>
    refine h.arrive (h.intakeTaken hs) _ _ _ (fun u c r hu hv => ?_) (fun u hu => h.settle hu) hs
    unfold dispatchUnfenceSet; dsimp only; split
    · exact h.finish _ _ _ hu
    · exact h.setFence _ _ hu
  case abort =>
    refine h.arrive (h.intakeTaken hs) _ _ _ (fun u c r hu hv => ?_) (fun u hu => hu) hs
    unfold dispatchAbort; split
    · exact h.settleSets _ (h.finish _ _ _ (h.abortFound _ hu))
    · exact h.settle (h.finish _ _ _ hu)
  case opcodeNamesNoCommand =>
    unfold State.arriveUnnamed; split
    · next a ha =>
      have hn : s.arrival ≠ none := by rw [ha]; exact Option.some_ne_none a
      have ht' := h.takeArrival a (h.intakeTaken hs a.rest hn)
      split
      · exact h.settleHost (h.finish _ _ _ ht')
      · exact hs
    · exact hs
  case enable => exact ifUsable hs (h.writeControl _ hs)
  case quiesce => exact ifUsable hs (h.writeControl _ hs)
  case quiesceCleared => exact ifUsable hs (h.writeControl _ hs)
  case flushOnQuiesce => exact ifUsable hs (h.writeControl _ hs)
  case softReset => exact ifUsable hs (h.writeControl _ hs)
  case srTailWrite => exact ifUsable hs (h.writeSrTail _ _ hs)
  case crHeadWrite => exact ifUsable hs (h.writeCrHead _ _ hs)
  case registerWrite => exact ifUsable hs (h.writeWindow _ _ _ hs)
  case hostLinkReset => exact h.hostPort _ _ (h.soft s hs)
  case powerOn => exact h.pend _ _ h.reset
  case vectorUnmasked v =>
    unfold State.unmask; split
    · exact h.hostWrite _ (h.hostPort _ _ hs)
    · exact hs
  case coalescingTimerExpires n p =>
    unfold State.timerExpires; split
    · split
      · exact h.sendInterrupt _ _ hs
      · exact hs
    · exact hs
  case fetchCompletes r => exact h.endFetch _ hs
  case fetchFails => exact h.endFetch _ hs
  case completionWriteSucceeds => exact h.postSucceeds _ _ hs
  case completionWriteFails => exact h.postFails _ hs
  case checkCodeGoesBad =>
    unfold State.spoilCode; split
    · exact hs
    · exact h.setLine _ _ hs (le_refl _)
  case readOutCompletes i =>
    split
    · next x _ =>
      unfold State.readOutEnds; dsimp only
      refine h.settleIf _ _ (h.releaseChannel _ (h.completeBop _ _ ?_))
      have := h.releaseRead x.line (h.hostWrite (.readOut x.address (s.frame x.line)) hs)
      split
      · exact this
      · exact h.touchWay _ this
    · exact hs
  case readOutRefused i =>
    split
    · next x _ =>
      unfold State.readOutRefuses; dsimp only
      exact h.settleIf _ _ (h.releaseChannel _ (h.reportFault _ (h.completeBop _ _ (h.releaseRead x.line (h.hostWrite _ hs)))))
    · exact hs
  case writeInData i p d => exact h.writeInData_keeps i p d hs
  case writeInReadFailed i n => exact h.writeInReadFailed_keeps i n hs
  case drawCompletes i =>
    split
    · unfold State.drawEnds; dsimp only
      exact h.settleIf _ _ (h.releaseRead _ (h.setSlot _ _ (h.mediaSend _ hs)))
    · exact hs
  case response m => exact h.response_keeps m hs
  case unknownMessage => exact hs
  case responseTimeout i =>
    split
    · unfold State.timeOut; refine h.settleIf _ _ ?_
      repeat' split
      · exact h.setSlot _ _ hs
      · exact h.retry _ _ hs
      · exact h.failSlot _ _ _ hs
    · exact hs
  case busyDelayExpires i =>
    split
    · exact h.settleIf _ _ (h.retry _ _ hs)
    · exact hs
  case announce m => exact h.announce_keeps m hs
  case linkLoss =>
    split
    · exact h.settle (h.loseLink h.down _ hs)
    · exact hs
  case retagWalkVisit =>
    split
    · exact h.settle (h.walkVisit _ hs)
    · exact hs
  case noticeWriteSucceeds c =>
    unfold State.noticeWritten; split
    · exact h.settleHost (h.finish _ _ _ hs)
    · exact hs
  case noticeWriteFails c =>
    unfold State.noticeRefused; split
    · exact h.settleHost (h.finish _ _ _ (h.reportFault _ (h.mergeNotice _ hs)))
    · exact hs
  case snapshotWriteSucceeds c =>
    unfold State.recordWritten; split
    · exact h.settleHost (h.finish _ _ _ hs)
    · exact hs
  case snapshotWriteFails c =>
    unfold State.recordRefused; split
    · exact h.settleHost (h.finish _ _ _ (h.reportFault _ hs))
    · exact hs
  case geometryWriteSucceeds c =>
    unfold State.recordWritten; split
    · exact h.settleHost (h.finish _ _ _ hs)
    · exact hs
  case geometryWriteFails c =>
    unfold State.recordRefused; split
    · exact h.settleHost (h.finish _ _ _ (h.reportFault _ hs))
    · exact hs
  case hostLinkUsable => exact h.hostPort _ _ hs


/-- Every step keeps it. -/
theorem step_keeps (hs : P s) (ht : step s = .next t) : P t := by
  unfold step at ht
  split at ht
  · cases ht
    exact hs
  · exact h.exec_keeps _ (h.pend s _ hs) ht

end StableExec

end Sys2Proof.Machine
end

