-- ==== Sys2Proof/Laws/Lines.lean ====
section
/-! SUPPORT. What the shared operations on lines and on the write-back account make of the directory and of the Write-Back Unit, said
once. Nothing here needs to know what else the state holds. -/

namespace Sys2Proof.Machine.State

variable (s : State)

/-! ### Lines and sets -/

theorem line_of_directory {s t : State} (h : t.directory = s.directory) (l : LineId) : t.line l = s.line l := by
  simp only [State.line, State.cacheSet, h]

theorem cacheSet_of_directory {s t : State} (h : t.directory = s.directory) (S : SetId) : t.cacheSet S = s.cacheSet S := by
  simp only [State.cacheSet, h]

theorem line_setLine (l x : LineId) (ln : Line) : (s.setLine l ln).line x = if x = l then ln else s.line x := by
  split
  · next h => rw [h, line_setLine_self]
  · next h => exact line_setLine_ne s l x ln (Ne.symm h)

/-- A change of a line changes its set's ways and nothing else of any set. -/
theorem cacheSet_setLine (l : LineId) (ln : Line) (S : SetId) :
    (s.setLine l ln).cacheSet S =
      if S = l.set then { s.cacheSet S with ways := (s.cacheSet S).ways.set l.way ln } else s.cacheSet S := by
  unfold State.setLine
  split
  · next h => rw [h, cacheSet_setCacheSet_self]
  · next h => rw [cacheSet_setCacheSet_ne _ _ _ _ (Ne.symm h)]

@[simp] theorem fence_setLine (l : LineId) (ln : Line) (S : SetId) :
    ((s.setLine l ln).cacheSet S).fence = (s.cacheSet S).fence := by
  rw [cacheSet_setLine]
  split <;> rfl

@[simp] theorem waitList_setLine (l : LineId) (ln : Line) (S : SetId) :
    ((s.setLine l ln).cacheSet S).waitList = (s.cacheSet S).waitList := by
  rw [cacheSet_setLine]
  split <;> rfl

@[simp] theorem recency_setLine (l : LineId) (ln : Line) (S : SetId) :
    ((s.setLine l ln).cacheSet S).recency = (s.cacheSet S).recency := by
  rw [cacheSet_setLine]
  split <;> rfl

@[simp] theorem isFenced_setLine (l : LineId) (ln : Line) (S : SetId) : (s.setLine l ln).isFenced S = s.isFenced S := by
  simp only [isFenced, fence_setLine]

/-! ### The write-back account -/

/-- A line that leaves the dirty order list changes that list and the pressure flag only. -/
theorem leaveDirty_eq (l : LineId) :
    s.leaveDirty l = { s with writeBack := { s.writeBack with
      dirtyOrder := s.writeBack.dirtyOrder.filter (· != l), pressure := (s.leaveDirty l).writeBack.pressure } } := by
  unfold State.leaveDirty
  split
  · rfl
  · next h =>
    rw [List.filter_eq_self.2 fun x hx => by
      simp only [bne_iff_ne, ne_eq]
      rintro rfl
      exact h hx]

/-- An epoch's count is the only part that a change of it changes. -/
theorem setUnclean_eq (e : Epoch) (n : Nat) :
    s.setUnclean e n = { s with writeBack := { s.writeBack with
      unclean0 := (s.setUnclean e n).writeBack.unclean0, unclean1 := (s.setUnclean e n).writeBack.unclean1 } } := by
  cases e <;> rfl

@[simp] theorem unclean_setUnclean_self (e : Epoch) (n : Nat) : (s.setUnclean e n).unclean e = n := by
  cases e <;> rfl

@[simp] theorem unclean_setUnclean_other (e : Epoch) (n : Nat) : (s.setUnclean e n).unclean e.other = s.unclean e.other := by
  cases e <;> rfl

/-- A failure changes the record of the active flush-all only. -/
theorem oldEpochFailure_eq (e : Epoch) (st : Status) :
    s.oldEpochFailure e st = { s with writeBack := { s.writeBack with
      activeFlushAll := (s.oldEpochFailure e st).writeBack.activeFlushAll } } := by
  unfold State.oldEpochFailure State.flushAllFailure
  split
  · split
    · split <;> rfl
    · rfl
  · rfl

/-- What a failure makes of the record depends on the record only. -/
theorem oldEpochFailure_record {s t : State} (h : t.writeBack.activeFlushAll = s.writeBack.activeFlushAll) (e : Epoch)
    (st : Status) :
    (t.oldEpochFailure e st).writeBack.activeFlushAll = (s.oldEpochFailure e st).writeBack.activeFlushAll := by
  unfold State.oldEpochFailure State.flushAllFailure
  rw [h]
  split
  · split
    · rfl
    · exact h
  · exact h

/-- What giving up an unclean line of epoch `e` does: its clean wanted flag is cleared and nothing else of the directory changes; it leaves
both lists, its count goes down, and the active flush-all may take a failure (R66 items 1 to 3). -/
theorem giveUpUnclean_eq (l : LineId) (e : Epoch) (h : (s.line l).state.epoch = some e) :
    s.giveUpUnclean l = { s.setLine l { s.line l with cleanWanted := false } with
      writeBack := { (s.uncleanDown e).writeBack with
        dirtyOrder := s.writeBack.dirtyOrder.filter (· != l), urgent := s.writeBack.urgent.filter (· != l),
        pressure := (s.leaveDirty l).writeBack.pressure,
        activeFlushAll := (s.oldEpochFailure e .fenced).writeBack.activeFlushAll } } := by
  unfold State.giveUpUnclean
  rw [h]
  dsimp only
  rw [oldEpochFailure_eq, oldEpochFailure_record (s := s)]
  · rw [leaveDirty_eq]
    cases e <;> rfl
  · rw [leaveDirty_eq]
    cases e <;> rfl

theorem giveUpUnclean_of_clean (l : LineId) (h : (s.line l).state.epoch = none) : s.giveUpUnclean l = s := by
  unfold State.giveUpUnclean
  rw [h]

end Sys2Proof.Machine.State
end

