-- ==== Sys2Proof/Laws/Media.lean ====
section
/-! SUPPORT. What the lookups, services and relookup passes of the Line Directory can do to the Media Port and to the flush-all record,
said once: they make a slot an orphan or free one that waits (R97), and they change the fill queue; while the link is DOWN nothing joins that
queue (R4). So they free no slot that a request is under way for, and each issue of the arbiter takes a slot for good. They neither activate
nor end a flush-all, and leave the retag walk where it is. -/

namespace Sys2Proof.Machine

/-- The slots of `t` are those of `s`, but for slots that became orphans or, from BACKOFF or REDRAW_WAIT, FREE; with the link DOWN nothing
joined the fill queue. The same flush-all is active in both, if one is, and the retag walk stands where it stood. -/
structure State.Thins (s t : State) : Prop where
  link : t.media.link = s.media.link
  slot : ∀ i, t.slot i = s.slot i ∨ ∃ m, s.slot i = some m ∧
    (((m.state = .drawing ∨ m.state = .awaiting) ∧ t.slot i = some { m with orphan := true }) ∨
      ((m.state = .backoff ∨ m.state = .redrawWait) ∧ t.slot i = none))
  queue : s.media.link = .down → ∀ l ∈ t.media.fillQueue, l ∈ s.media.fillQueue
  walk : t.writeBack.walk = s.writeBack.walk
  epoch : t.writeBack.activeFlushAll.map FlushAllRecord.oldEpoch = s.writeBack.activeFlushAll.map FlushAllRecord.oldEpoch

namespace State

namespace Thins

variable {s t u : State}

/-- The Media Port is the same in both. -/
theorem of_media (h : t.media = s.media) (hw : t.writeBack.walk = s.writeBack.walk)
    (ha : t.writeBack.activeFlushAll.map FlushAllRecord.oldEpoch = s.writeBack.activeFlushAll.map FlushAllRecord.oldEpoch) :
    s.Thins t :=
  ⟨by rw [h], fun _ => .inl (by unfold State.slot; rw [h]), fun _ l hl => by rwa [h] at hl, hw, ha⟩

/-- The Media Port and the Write-Back Unit are the same in both. -/
theorem of_same (h : t.media = s.media) (hw : t.writeBack = s.writeBack) : s.Thins t := of_media h (by rw [hw]) (by rw [hw])

theorem of_core (h : s.SameCore t) : s.Thins t := of_same h.media h.writeBack

theorem refl (s : State) : s.Thins s := of_same rfl rfl

theorem trans (h : s.Thins t) (g : t.Thins u) : s.Thins u := by
  refine ⟨g.link.trans h.link, fun i => ?_, fun hd l hl => h.queue hd l (g.queue (h.link.trans hd) l hl),
    g.walk.trans h.walk, g.epoch.trans h.epoch⟩
  obtain h1 | ⟨m, h1, h2⟩ := h.slot i
  · have h3 := g.slot i
    rwa [h1] at h3
  · refine .inr ⟨m, h1, ?_⟩
    obtain ⟨hm, ht⟩ | ⟨hm, ht⟩ := h2
    · obtain h3 | ⟨n, h3, h4⟩ := g.slot i
      · exact .inl ⟨hm, h3.trans ht⟩
      · rw [ht] at h3
        cases h3
        obtain ⟨-, h4⟩ | ⟨h4, -⟩ := h4
        · exact .inl ⟨hm, h4⟩
        · obtain hm | hm := hm <;> obtain h4 | h4 := h4 <;> rw [hm] at h4 <;> cases h4
    · obtain h3 | ⟨n, h3, -⟩ := g.slot i
      · exact .inr ⟨hm, h3.trans ht⟩
      · rw [ht] at h3
        cases h3

/-- A change of another part comes first. -/
theorem after (g : t.Thins u) (h : t.media = s.media) (hw : t.writeBack = s.writeBack) : s.Thins u := (of_same h hw).trans g

theorem setAccessQueue (s : State) (l : LineId) (q : List Bop) : s.Thins (s.setAccessQueue l q) := of_media rfl rfl rfl

theorem setWatchers (s : State) (l : LineId) (w : List Watcher) : s.Thins (s.setWatchers l w) := of_media rfl rfl rfl

theorem setWaitList (s : State) (S : SetId) (q : List Bop) : s.Thins (s.setWaitList S q) := of_media rfl rfl rfl

theorem setFence (s : State) (S : SetId) (f : FenceRecord) : s.Thins (s.setFence S f) := of_media rfl rfl rfl

theorem enterInvalid (s : State) (l : LineId) : s.Thins (s.enterInvalid l) := of_media rfl rfl rfl

theorem reportFault (s : State) (r : FaultRecord) : s.Thins (s.reportFault r) := of_media rfl rfl rfl

theorem filterQueue (s : State) (p : LineId → Bool) :
    s.Thins { s with media := { s.media with fillQueue := s.media.fillQueue.filter p } } :=
  ⟨rfl, fun _ => .inl rfl, fun _ _ hl => (List.mem_filter.1 hl).1, rfl, rfl⟩

theorem completeBop (s : State) (b : Bop) (st : Status) : s.Thins (s.completeBop b st) :=
  of_core (SameCore.completeBop s b st)

theorem completeAll (st : Status) (bs : List Bop) (s : State) : s.Thins (completeAll st bs s) :=
  of_core (SameCore.completeAll st bs s)

theorem handOver (s : State) (t : Transfer) : s.Thins (s.handOver t) := by
  unfold State.handOver State.takeChannel
  split
  · dsimp only
    split <;> exact of_same rfl rfl
  · exact of_same rfl rfl

theorem startRead (s : State) (l : LineId) (b : Bop) : s.Thins (s.startRead l b) :=
  after (handOver (s.setLine l { s.line l with readers := (s.line l).readers + 1 }) _) rfl rfl

theorem startWrite (s : State) (l : LineId) (b : Bop) : s.Thins (s.startWrite l b) :=
  after (handOver (s.setLine l { s.line l with exclusive := true }) _) rfl rfl

theorem startPin (s : State) (l : LineId) (b : Bop) : s.Thins (s.startPin l b) := by
  unfold State.startPin
  dsimp only
  split
  · exact completeBop s b _
  · split
    · exact completeBop s b _
    · exact after (completeBop ((s.setLine l _).touchWay l) b _) rfl rfl

theorem leaveDirty (s : State) (l : LineId) : s.Thins (s.leaveDirty l) := by
  unfold State.leaveDirty
  split <;> exact of_media rfl rfl rfl

theorem wantClean (s : State) (l : LineId) : s.Thins (s.wantClean l) := by
  unfold State.wantClean
  split <;> exact of_media rfl rfl rfl

theorem unwantClean (s : State) (l : LineId) : s.Thins (s.unwantClean l) := of_media rfl rfl rfl

theorem setUnclean (s : State) (e : Epoch) (n : Nat) : s.Thins (s.setUnclean e n) := by
  cases e <;> exact of_media rfl rfl rfl

theorem forgetDirty (s : State) (l : LineId) : s.Thins (s.forgetDirty l) := by
  unfold State.forgetDirty
  split
  · exact ((leaveDirty s l).trans (unwantClean _ l)).trans (setUnclean _ _ _)
  all_goals exact refl s

theorem startDiscard (s : State) (l : LineId) (b : Bop) : s.Thins (s.startDiscard l b) :=
  (((((forgetDirty s l).trans (setWatchers _ l [])).trans (setAccessQueue _ l [])).trans (enterInvalid _ l)).trans
    (completeAll .discarded _ _)).trans (completeBop _ b .ok)

theorem flushAllFailure (s : State) (st : Status) : s.Thins (s.flushAllFailure st) := by
  unfold State.flushAllFailure
  split
  · next h => exact of_media rfl rfl (by rw [h]; rfl)
  · exact refl s

theorem oldEpochFailure (s : State) (e : Epoch) (st : Status) : s.Thins (s.oldEpochFailure e st) := by
  unfold State.oldEpochFailure
  split
  · split
    · exact flushAllFailure s st
    · exact refl s
  · exact refl s

theorem giveUpUnclean (s : State) (l : LineId) : s.Thins (s.giveUpUnclean l) := by
  unfold State.giveUpUnclean
  split
  · exact (((leaveDirty s l).trans (unwantClean _ l)).trans (setUnclean _ _ _)).trans (oldEpochFailure _ _ _)
  · exact refl s

theorem orphanSlot (s : State) (l : LineId) (i : SlotId) : s.Thins (s.orphanSlot l i) := by
  unfold State.orphanSlot
  split
  · next m hm =>
    split
    · have free (x : Option MediaSlot)
          (hx : ((m.state = .drawing ∨ m.state = .awaiting) ∧ x = some { m with orphan := true }) ∨
            ((m.state = .backoff ∨ m.state = .redrawWait) ∧ x = none)) : s.Thins (s.setSlot i x) := by
        refine ⟨rfl, fun j => ?_, fun _ _ hl => hl, rfl, rfl⟩
        by_cases h : i = j
        · subst h
          rw [slot_setSlot_self]
          exact .inr ⟨m, hm, hx⟩
        · exact .inl (slot_setSlot_ne s i j x h)
      split
      · next h => exact free _ (.inl ⟨.inl h, rfl⟩)
      · next h => exact free _ (.inl ⟨.inr h, rfl⟩)
      · next h => exact free _ (.inr ⟨.inl h, rfl⟩)
      · next h => exact free _ (.inr ⟨.inr h, rfl⟩)
    · exact refl s
  · exact refl s

theorem foldl {α : Type} (f : State → α → State) (xs : List α) (hf : ∀ t x, State.Thins t (f t x)) (s : State) :
    s.Thins (xs.foldl f s) := by
  induction xs generalizing s with
  | nil => exact refl s
  | cons x xs ih => exact (hf s x).trans (ih _)

theorem giveUpFailedWay (s : State) (l : LineId) : s.Thins (s.giveUpFailedWay l) :=
  (((((((giveUpUnclean s l).trans (setWatchers _ l [])).trans (completeAll _ _ _)).trans (setAccessQueue _ l [])).trans
    (completeAll _ _ _)).trans (filterQueue _ _)).trans (foldl _ _ (fun t i => orphanSlot t l i) _)).trans
    (enterInvalid _ l)

theorem fenceQueue (s : State) (l : LineId) : s.Thins (s.fenceQueue l) :=
  (setAccessQueue s l []).trans (completeAll _ _ _)

theorem salvage (s : State) (l : LineId) : s.Thins (s.salvage l) := by
  unfold State.salvage
  split
  · exact wantClean s l
  · exact refl s

theorem fenceSet (s : State) (S : SetId) (w : WayId) : s.Thins (s.fenceSet S w) :=
  ((((((setFence s S _).trans (giveUpFailedWay _ _)).trans (foldl _ _ (fun t _ => fenceQueue t _) _)).trans
    (setWaitList _ S [])).trans (completeAll _ _ _)).trans (foldl _ _ (fun t _ => salvage t _) _)).trans (reportFault _ _)

theorem askVictimClean (s : State) (S : SetId) : s.Thins (s.askVictimClean S) := by
  unfold State.askVictimClean
  split
  · exact wantClean s _
  · exact refl s

theorem joinWaitList (s : State) (S : SetId) (b : Bop) : s.Thins (s.joinWaitList S b) :=
  (setWaitList s S _).trans (askVictimClean _ S)

theorem allocate (s : State) (l : LineId) (b : Bop) (h : s.media.link = .up ∨ b.kind = .write) : s.Thins (s.allocate l b) := by
  unfold State.allocate
  split
  · exact after (startWrite
      ((s.setLine l { s.line l with state := .filling b.block .host, checkBad := false }).touchWay l) l b) rfl rfl
  all_goals
    next hk =>
      obtain h | h := h
      · exact ⟨rfl, fun _ => .inl rfl, fun hd => (by rw [h] at hd; cases hd), rfl, rfl⟩
      · rw [hk] at h
        cases h

theorem seekVictim (s : State) (m : LookupMode) (b : Bop) (h : s.media.link = .up ∨ b.kind = .write) :
    s.Thins (s.seekVictim m b).1 := by
  unfold State.seekVictim
  dsimp only
  split
  · exact joinWaitList s _ b
  · split
    · exact allocate s _ b h
    · split
      · exact refl s
      · exact joinWaitList s _ b

theorem lookupMiss (s : State) (m : LookupMode) (b : Bop) : s.Thins (s.lookupMiss m b).1 := by
  have up (h : ¬s.media.link = .down) : s.media.link = .up := by
    cases hl : s.media.link
    · exact absurd hl h
    · rfl
  unfold State.lookupMiss
  split
  · split
    · exact completeBop s b _
    · next h => exact seekVictim s m b (.inl (up h))
  · split
    · exact completeBop s b _
    · next h => exact seekVictim s m b (.inl (up h))
  · next h => exact seekVictim s m b (.inr h)
  all_goals exact completeBop s b _

theorem unpinHit (s : State) (l : LineId) (b : Bop) : s.Thins (s.unpinHit l b).1 := by
  unfold State.unpinHit
  dsimp only
  split
  · exact (after (completeBop _ b _) rfl rfl)
  · exact completeBop s b _

theorem flushHit (s : State) (l : LineId) (b : Bop) : s.Thins (s.flushHit l b).1 := by
  unfold State.flushHit
  dsimp only
  split
  · exact (setWatchers s l _).trans (wantClean _ l)
  · exact (setWatchers s l _).trans (wantClean _ l)
  · exact of_media rfl rfl rfl
  all_goals exact completeBop s b _

theorem startBop (s : State) (l : LineId) (b : Bop) : s.Thins (s.startBop l b).1 := by
  unfold State.startBop
  split
  · exact startRead s l b
  · exact startWrite s l b
  · exact startPin s l b
  · exact startDiscard s l b
  all_goals exact refl s

theorem queuedHit (s : State) (l : LineId) (b : Bop) : s.Thins (s.queuedHit l b).1 := by
  unfold State.queuedHit
  dsimp only
  split
  · split
    · split
      · exact startBop s l b
      · exact completeBop s b _
      · exact of_media rfl rfl rfl
    · exact of_media rfl rfl rfl
  · exact of_media rfl rfl rfl

theorem lookupBop (s : State) (m : LookupMode) (b : Bop) : s.Thins (s.lookupBop m b).1 := by
  unfold State.lookupBop
  dsimp only
  split
  · exact completeBop s b _
  · split
    · exact (fenceSet s _ _).trans (completeBop _ b _)
    · split
      · split
        · exact unpinHit s _ b
        · exact flushHit s _ b
        all_goals exact queuedHit s _ b
      · exact lookupMiss s m b

theorem relookDetached (bs : List Bop) (s : State) : s.Thins (relookDetached bs s) := by
  induction bs generalizing s with
  | nil => exact refl s
  | cons b bs ih => exact (lookupBop s .detached b).trans (ih _)

theorem serviceLoop (l : LineId) (n : Nat) (s : State) : s.Thins (serviceLoop l n s).1 := by
  induction n generalizing s with
  | zero => exact refl s
  | succ n ih =>
    unfold Sys2Proof.Machine.serviceLoop
    dsimp only
    split
    · exact refl s
    · split
      · split
        · exact refl s
        · exact ((setAccessQueue s l _).trans (completeBop _ _ _)).trans (ih _)
        · split
          · exact ((setAccessQueue s l _).trans (startBop _ l _)).trans (relookDetached _ _)
          · exact ((setAccessQueue s l _).trans (startBop _ l _)).trans (ih _)
      · exact refl s

theorem serve (s : State) (l : LineId) : s.Thins (s.serve l).1 := serviceLoop l _ s

theorem passLoop (S : SetId) (bs : List Bop) (s : State) : s.Thins (passLoop S bs s) := by
  induction bs generalizing s with
  | nil => exact refl s
  | cons b bs ih =>
    have h := (setWaitList s S ((s.cacheSet S).waitList.filter (· != b))).trans (lookupBop _ .pass b)
    unfold Sys2Proof.Machine.passLoop
    split
    · split
      · exact ih s
      · next e => exact (e ▸ h : _).trans (ih _)
      · next e => exact ((e ▸ h : _).trans (serve _ _)).trans (ih _)
    · exact ih s

theorem pass (s : State) (S : SetId) : s.Thins (s.pass S) := by
  unfold State.pass
  dsimp only
  split
  · exact refl s
  · split
    · exact passLoop S _ s
    · exact (passLoop S _ s).trans (askVictimClean _ S)

theorem passAll (sets : List SetId) (s : State) : s.Thins (passAll sets s) := by
  induction sets generalizing s with
  | nil => exact refl s
  | cons S sets ih => exact (pass s S).trans (ih _)

theorem afterChange (s : State) (l : LineId) : s.Thins (s.afterChange l).1 := serve s l

theorem releaseRead (s : State) (l : LineId) : s.Thins (s.releaseRead l).1 :=
  after (serve (s.setLine l { s.line l with readers := (s.line l).readers - 1 }) l) rfl rfl

/-! ### The Write-Back Unit -/

theorem setLineState (s : State) (l : LineId) (st : LineState) : s.Thins (s.setLineState l st) := of_media rfl rfl rfl

theorem joinDirty (s : State) (l : LineId) : s.Thins (s.joinDirty l) := of_media rfl rfl rfl

theorem beginDraw (s : State) (l : LineId) : s.Thins (s.beginDraw l) := by
  unfold State.beginDraw
  dsimp only
  refine Thins.trans ?_ (setWatchers _ l _)
  have h : s.Thins (((s.setLine l { s.line l with readers := (s.line l).readers + 1 }).leaveDirty l).unwantClean l) :=
    after ((leaveDirty (s.setLine l { s.line l with readers := (s.line l).readers + 1 }) l).trans (unwantClean _ l)) rfl rfl
  split
  · exact h.trans (setLineState _ l _)
  all_goals exact h

theorem answerWatchers (s : State) (l : LineId) (st : Status) : s.Thins (s.answerWatchers l st) :=
  (setWatchers s l _).trans (completeAll _ _ _)

theorem dropLine (s : State) (l : LineId) : s.Thins (s.dropLine l) :=
  ((((giveUpUnclean s l).trans (setWatchers _ l [])).trans (completeAll _ _ _)).trans (enterInvalid _ l)).trans
    (setFence _ _ _)

theorem returnDirty (s : State) (l : LineId) (st : Status) : s.Thins (s.returnDirty l st) := by
  have back (b : Nat) (e : Epoch) : s.Thins (State.joinDirty (if e = s.writeBack.currentEpoch then s.setLineState l (.dirty b e)
      else (((s.setLineState l (.dirty b s.writeBack.currentEpoch)).uncleanDown e).uncleanUp
        s.writeBack.currentEpoch).flushAllFailure st) l) := by
    refine Thins.trans ?_ (joinDirty _ l)
    split
    · exact setLineState s l _
    · exact (((setLineState s l _).trans (setUnclean _ _ _)).trans (setUnclean _ _ _)).trans (flushAllFailure _ st)
  unfold State.returnDirty
  dsimp only
  split
  · exact back _ _
  · exact back _ _
  all_goals exact refl s

theorem failClean (s : State) (l : LineId) (st : Status) : s.Thins (s.failClean l st) := by
  unfold State.failClean
  refine Thins.trans ?_ (serve _ l)
  split
  · exact dropLine s l
  · exact (returnDirty s l st).trans (answerWatchers _ l st)

theorem finish (s : State) (c : CtxId) (st : Status) (n : Nat) : s.Thins (s.finish c st n) :=
  of_core (SameCore.finish s c st n)

end Thins

/-! ### Ends and activations of a flush-all leave the Media Port as it is -/

theorem endFlushAll_media (s : State) (st : Status) : (s.endFlushAll st).media = s.media := by
  unfold State.endFlushAll
  dsimp only
  split
  · exact (SameCore.finish _ _ _ _).media
  · rfl

theorem activateLoop_media (n : Nat) (s : State) : (activateLoop n s).media = s.media := by
  induction n generalizing s with
  | zero => rfl
  | succ n ih =>
    unfold Machine.activateLoop
    dsimp only
    split
    · rfl
    · split
      · exact (ih _).trans (endFlushAll_media _ _)
      · rfl

theorem judgeFlushAll_media (s : State) : s.judgeFlushAll.media = s.media := by
  unfold State.judgeFlushAll
  split
  · split
    · exact (activateLoop_media _ _).trans (endFlushAll_media _ _)
    · rfl
  · rfl

theorem cutFlushAll_media (s : State) (st : Status) : (s.cutFlushAll st).media = s.media := by
  unfold State.cutFlushAll
  split
  · exact endFlushAll_media s st
  · rfl

namespace Thins

/-! ### Failures and link loss -/

theorem failQueued (st : Status) (bs : List Bop) (s : State) : s.Thins (failQueued st bs s) := by
  induction bs generalizing s with
  | nil => exact refl s
  | cons b bs ih => exact (completeBop s b _).trans (ih _)

theorem failFill (s : State) (l : LineId) (st : Status) : s.Thins (s.failFill l st).1 := by
  unfold State.failFill
  dsimp only
  split
  · exact (enterInvalid s l).trans (serve _ l)
  · split
    · have h := (setAccessQueue s l _).trans (failQueued st (splitAtWrite (s.line l).accessQueue).1
        (s.setAccessQueue l (splitAtWrite (s.line l).accessQueue).2))
      split
      · exact ((h.trans (setAccessQueue _ l _)).trans (setLineState _ l _)).trans (startWrite _ l _)
      · exact h.trans (enterInvalid _ l)
    all_goals exact refl s

theorem dropDirty (s : State) (S : SetId) : s.Thins (s.dropDirty S) := by
  unfold State.dropDirty
  split
  · refine foldl _ _ (fun t w => ?_) s
    split
    · exact dropLine t _
    · exact refl t
  · exact refl s

end Thins

end State

end Sys2Proof.Machine
end

