-- ==== Sys2Proof/WellFormed.lean ====
section
/-! DEFINITION. Which commands are well formed: those whose operands an event of the spec can carry. `exec` is total all the
same; an ill-formed command is an event that does not happen and changes nothing.
DESIGN CHOICE (notes/assumptions/2.md). -/

namespace Sys2Proof.Machine

/-- The message is a response, with or without data (R184). -/
def isResponse (m : List Byte) : Bool :=
  match parseMessage m with
  | .response .. => true
  | _ => false

/-- The message is an ANNOUNCE (R184). -/
def isAnnounce (m : List Byte) : Bool :=
  match parseMessage m with
  | .announce _ => true
  | _ => false

end Sys2Proof.Machine

namespace Sys2Proof

open Machine in
/-- The operands are within the ranges the spec gives the event. -/
def Instr.wellFormed : Instr → Bool
  | .lookup _ offset => offset < 256
  | .writeInData _ position data => !data.isEmpty && position + data.length ≤ 4096
  | .writeInReadFailed _ unanswered => unanswered < 4096
  | .response m => isResponse m
  | .announce m => isAnnounce m
  | .unknownMessage m => parseMessage m == .discarded
  | .registerWrite offset size value =>
    (size == 1 || size == 2 || size == 4 || size == 8) && offset + size ≤ 4096 && value.toNat < 256 ^ size
  | .read | .write | .flush | .flushAll | .discard | .pin | .unpin | .createSubmissionRing | .createCompletionRing
  | .deleteSubmissionRing | .deleteCompletionRing | .setRingOptions _ | .setCleaner | .setMediaParams | .reportGeometry
  | .awaitNotice | .readSet | .unfenceSet | .abort | .opcodeNamesNoCommand | .enable _ _ | .quiesce _ _
  | .quiesceCleared _ _ | .flushOnQuiesce _ _ _ | .softReset _ _ _ | .srTailWrite _ _ | .crHeadWrite _ _
  | .hostLinkReset | .powerOn | .vectorUnmasked _ | .coalescingTimerExpires _ _ | .fetchCompletes _ | .fetchFails
  | .completionWriteSucceeds _ _ | .completionWriteFails _ | .checkCodeGoesBad _ _ | .readOutCompletes _
  | .readOutRefused _ | .drawCompletes _ | .responseTimeout _ | .busyDelayExpires _ | .linkLoss | .retagWalkVisit
  | .noticeWriteSucceeds _ | .noticeWriteFails _ | .snapshotWriteSucceeds _ | .snapshotWriteFails _
  | .geometryWriteSucceeds _ | .geometryWriteFails _ | .hostLinkUsable => true

end Sys2Proof
end

