-- ==== Sys2Proof/Tests/Slice0.lean ====
section
/-! SUPPORT. Tests of the model: an ill-formed command for each check, single steps whose results the spec's own examples and tables
give, and for every statement of Obligations.lean with hypotheses a state and operands that meet them. -/

namespace Sys2Proof.Tests

open Sys2Proof.Machine

set_option Elab.async false

/-! ### Small states -/

/-- A record with these (offset, size, value) fields and zeros elsewhere. -/
def recordOf (fs : List (Nat × Nat × Nat)) : Record := BitVec.ofNat 512 (assemble fs)

/-- A submission ring of 8 entries bound to CR `m`, with 2 records waiting. -/
def ring (m : RingId) : SubmissionRing :=
  { state := .active, base := 0x20000, entries := 8, head := 1, tail := 3, boundCr := m, weight := 2, fetchInFlight := false }

/-- A running engine with the link UP and 100 blocks; SR0 on CR0, SR1 on CR1. -/
def live : State :=
  let s := ((State.reset.setSr 0 (some (ring 0))).setCr 0 (some (newCr 0x30000 8 0 true 1 0))).setSr 1 (some (ring 1))
  let s := s.setCr 1 (some (newCr 0x40000 4 3 true 2 0))
  { s with engine := { s.engine with state := .running }, media := { s.media with link := .up, capacity := 100 } }

def inState (e : EngineState) : State := { live with engine := { live.engine with state := e } }

/-- The record of ring `n` is the next to arrive, in context 0. -/
def arriving (s : State) (n : RingId) (r : Record) : State :=
  let s := s.setCtx 0 (.fetching n true)
  { s with rings := { s.rings with intake := [{ ctx := 0, record := r }] } }

def arrivalOf (n : RingId) (r : Record) : Arrival := { ctx := 0, sr := n, reserved := true, record := r, rest := [] }

/-- The arrival is accepted as this command; what `State.Accepts` says, as a test that can be run. -/
def accepted (s : State) (k : CommandKind) (n : RingId) (r : Record) : Bool :=
  decide ((arriving s n r).arrival = some (arrivalOf n r)) && decide (commandOf n r = some k) &&
    decide ((arriving s n r).intakeStatus k 0 n r = .ok)

theorem accepts {s : State} {k : CommandKind} {n : RingId} {r : Record} (h : accepted s k n r = true) :
    (arriving s n r).Accepts k (arrivalOf n r) := by
  simp only [accepted, Bool.and_eq_true, decide_eq_true_eq] at h
  exact ⟨h.1.1, h.1.2, h.2⟩

/-- Context `c` holds the command of ring `n` in this state. -/
def holding (s : State) (c : CtxId) (st : ContextState) (n : RingId) (r : Record) (outstanding : Nat) : State :=
  s.setCtx c (.holding { arrivedCommand n true r with state := st, outstanding := outstanding })

def readRecord (id first count : Nat) : Record := recordOf [(0, 1, 1), (2, 2, id), (4, 2, count), (8, 8, first)]

/-- A block operation of context 5. -/
def bopOf (k : BopKind) (block : Nat) : Bop := { ctx := 5, offset := 0, block := block, kind := k, durable := false }

/-- Context 5 runs with this block operation awaiting lookup. -/
def awaiting (s : State) (b : Bop) : State :=
  let s := holding s 5 .running 1 (readRecord 7 b.block 1) 1
  { s with commands := { s.commands with awaitingLookup := [b] } }

/-- Context 5 has `n` block operations outstanding. -/
def busyPool (n : Nat) : State := holding live 5 .running 1 (readRecord 7 0 1) n

theorem awaits {s : State} {b : Bop} (h : (awaiting s b).commands.awaitingLookup.find?
    (fun x => x.ctx == 5 && x.offset == 0) = some b) : (awaiting s b).Awaits 5 0 b := h

/-- Line 0 of set 5. -/
def line0 : LineId := ⟨5, 0⟩

/-- Line 0 of set 5 in this state, with these pins, readers and queue. -/
def withLine (st : LineState) (pins readers : Nat) (q : List Bop) : State :=
  live.setLine line0 { Line.reset with state := st, pins := pins, readers := readers, accessQueue := q }

/-- A transfer of context 5 on line 0 of set 5. -/
def transferFor (k : TransferKind) (received outstanding : Nat) (error durable : Bool) : Transfer :=
  { kind := k, bop := { bopOf (if k = .readOut then .read else .write) 5 with durable := durable }, line := line0,
    address := 0, gather := [], received := received, outstanding := outstanding, error := error }

/-- Context 5 runs, and this transfer of its holds channel 31. -/
def transferring (s : State) (t : Transfer) : State :=
  (holding s 5 .running 1 (readRecord 7 5 1) 1).setChannel 31 (some t)

/-- A slot for line 0 of set 5 in slot 31. -/
def slotOf (st : SlotState) (k : SlotKind) (attempt : Nat) (orphan : Bool) : MediaSlot :=
  { state := st, kind := k, block := 5, line := line0, attempt := attempt, timeout := 200, retryLimit := 3, timer := none,
    orphan := orphan }

/-- A response for slot 31 and block 5, of this attempt and result, with 4,096 bytes of data or without. -/
def responseOf (attempt result : Nat) (data : Bool) : List Byte :=
  [3, BitVec.ofNat 8 (31 + 32 * attempt), BitVec.ofNat 8 result, if data then 1 else 0, 0, 0, 0, 0, 5, 0, 0, 0, 0, 0, 0, 0] ++
    if data then List.replicate 4096 7 else []

def announceOf (bytes : List Byte) : List Byte := [4, 0, 0, 0, 0, 0, 0, 0] ++ bytes

/-- What a step's outcome says of the state after it. -/
def after (o : Host.Outcome State Fault Refusal) (p : State → Bool) : Bool :=
  match o with
  | .next t => p t
  | _ => false

/-! ### Well-formedness: each check refuses -/

theorem test_wf_lookup_offset : (Instr.lookup 0 256).wellFormed = false ∧ (Instr.lookup 0 255).wellFormed = true := by decide
theorem test_wf_data_empty : (Instr.writeInData 0 0 []).wellFormed = false ∧ (Instr.writeInData 0 0 [1]).wellFormed = true := by
  decide
theorem test_wf_data_end : (Instr.writeInData 0 4096 [1]).wellFormed = false ∧ (Instr.writeInData 0 4095 [1]).wellFormed = true := by
  decide
theorem test_wf_unanswered :
    (Instr.writeInReadFailed 0 4096).wellFormed = false ∧ (Instr.writeInReadFailed 0 4095).wellFormed = true := by decide
theorem test_wf_response : (Instr.response [3, 0, 0, 1]).wellFormed = false ∧
    (Instr.response (responseOf 0 0 false)).wellFormed = true := by decide
theorem test_wf_announce : (Instr.announce (responseOf 0 0 false)).wellFormed = false ∧
    (Instr.announce (announceOf [100, 0, 0, 0, 0, 0, 0, 0])).wellFormed = true := by decide
theorem test_wf_unknown : (Instr.unknownMessage (responseOf 0 0 false)).wellFormed = false ∧
    (Instr.unknownMessage [5]).wellFormed = true := by decide
theorem test_wf_write_size : (Instr.registerWrite 0 3 0).wellFormed = false ∧
    (Instr.registerWrite 0 4 0).wellFormed = true := by decide
theorem test_wf_write_offset : (Instr.registerWrite 4096 4 0).wellFormed = false ∧
    (Instr.registerWrite 4088 8 0).wellFormed = true := by decide
theorem test_wf_write_value : (Instr.registerWrite 0 4 0x100000000).wellFormed = false ∧
    (Instr.registerWrite 0 4 0xFFFFFFFF).wellFormed = true := by decide

/-! ### The spec's examples and tables -/

/-- Section 6.13: entries 4, tail 2, head 0, reserved 1 leave no credit; head 2 leaves credit 2. -/
theorem test_credit :
    ({ newCr 0 4 0 true 2 0 with tail := 2, reserved := 1 } : CompletionRing).hasCredit = false ∧
      ({ newCr 0 4 0 true 2 0 with tail := 2, head := 2, reserved := 1 } : CompletionRing).hasCredit = true := by decide

/-- Section 6.13, last row: after D's post tail 0, head 2; a head write of 2, 3 or 0 is accepted and one of 1 is not. -/
theorem test_head_span : ([0, 1, 2, 3].map ({ newCr 0 4 0 true 2 0 with head := 2 } : CompletionRing).inSpan) =
    [true, false, true, true] := by decide

/-- Section 6.13: D posts to entry 3; the tail wraps and the phase turns over to 0; the count has reached 2. -/
theorem test_post_wraps :
    let r := ({ newCr 0 4 0 true 2 0 with tail := 3, head := 2, reserved := 1, unsignalled := 1 } : CompletionRing).posted
    r.tail = 0 ∧ r.phase = false ∧ r.reserved = 0 ∧ r.messageDue = true := by decide

/-- Section 6.14: after SR3 the search wraps from SR15 to SR1, and the current SR comes last. -/
theorem test_search_order : (searchOrder 3).map Fin.val = [4, 5, 6, 7, 8, 9, 10, 11, 12, 13, 14, 15, 1, 2, 3] := by decide

/-- Section 1.12: block 20,485 belongs to set 5, and way 2 of it is line 42. -/
theorem test_set_of_block : setOf 20485 = 5 ∧ (LineId.frameBase ⟨5, 2⟩) = 4096 * 42 := by decide

/-- Section 1.12, first row: A's READ hits a CLEAN line with an empty queue and starts its read-out. -/
theorem test_read_hit_starts :
    after (exec (.lookup 5 0) (awaiting (withLine (.clean 5) 0 0 []) (bopOf .read 5))) (fun t =>
      (t.line line0).readers == 1 && (t.channel 0).isSome) = true := by decide +kernel

/-- Section 2.7: P misses, way 0 becomes FILLING (MEDIA) with P in its queue, and the fill is issued as attempt 0 in the same event. -/
theorem test_read_miss_fills :
    after (exec (.lookup 5 0) (awaiting live (bopOf .read 5))) (fun t =>
      (t.line line0).state == .filling 5 .media && (t.line line0).accessQueue.length == 1 &&
        t.media.requests == [.read (BitVec.ofNat 128 (1 + 5 * 2 ^ 64))]) = true := by decide +kernel

/-- R92, R94: a BUSY below the limit backs off for 100 microseconds; the retry sends attempt 1, whose tag is 32 + 31. -/
theorem test_busy_backs_off :
    after (exec (.response (responseOf 0 2 false)) (live.setSlot 31 (some (slotOf .awaiting .fill 0 false)))) (fun t =>
      t.slot 31 == some { slotOf .backoff .fill 0 false with timer := some 100 }) = true := by decide +kernel
theorem test_retry_tag :
    after (exec (.busyDelayExpires 31) (live.setSlot 31 (some (slotOf .backoff .fill 0 false)))) (fun t =>
      t.media.requests == [.read (BitVec.ofNat 128 (1 + 256 * 63 + 5 * 2 ^ 64))]) = true := by decide +kernel

/-- R174: after power-on the admin registers are 0, so ENABLE is refused. -/
theorem test_enable_refused :
    after (exec (.enable false false) State.reset) (fun t =>
      t.engine.enableRefused && t.engine.state == .disabled) = true := by decide +kernel

/-- R45: a fill lands; its bytes stand in the frame and the line becomes CLEAN. -/
theorem test_fill_lands :
    after (exec (.response (responseOf 0 0 true))
        ((withLine (.filling 5 .media) 0 0 []).setSlot 31 (some (slotOf .awaiting .fill 0 false)))) (fun t =>
      (t.line line0).state == .clean 5 && Memory.read t.frames (line0.frameBase + 4095) == 7 &&
        Memory.read t.frames (line0.frameBase + 4096) == 0) = true := by decide +kernel

/-- R21: a run of the arbiter draws both DIRTY lines of set 5, and the one pass of the set, which fences it at way 1, comes after both draws. -/
theorem test_one_pass_after_draws :
    (let s := (withLine (.dirty 5 .zero) 0 0 []).setLine ⟨5, 1⟩ { Line.reset with state := .dirty 4101 .zero, checkBad := true }
     let s := s.setWaitList 5 [bopOf .read 8197]
     let t := State.settle { s with writeBack := { s.writeBack with urgent := [line0, ⟨5, 1⟩] } }
     t.media.requests.length = 2 ∧ t.isFenced 5 = true ∧ (t.slot 1).any (·.orphan) = true) := by decide +kernel

/-- R185: word 0 of ENGINE STATUS: RUNNING (1) with the link UP (bit 3). -/
theorem test_status_word : live.readRegister 0x008 4 = 9 := by decide +kernel

/-- Table 9.4: the phase is the top byte of the record's last word, the command id its first two bytes. -/
theorem test_completion_record :
    completionRecord (arrivedCommand 1 true (readRecord 0xABCD 0 1)) 6 true =
      BitVec.ofNat 128 (0xABCD + 6 * 2 ^ 16 + 1 * 2 ^ 32 + 2 ^ 120) := by decide +kernel

/-- No word spells a command: the table gives no row any bits. -/
theorem test_no_word_decodes : decodeTableWord 32 0xFFFFFFFF = none := rfl

/-! ### Witnesses: states and operands that meet the hypotheses of the statements

One theorem for each statement of Obligations.lean that has hypotheses, named after it; for a statement of several clauses, one
state for each clause, at the boundary of its range where the clause has one. -/

def waiting : State := { withLine (.clean 5) 1 0 [] with pending := [.linkLoss] }

theorem witness_StepRunsFrontCommand : waiting.pending = .linkLoss :: [] ∧ live.pending = [] := ⟨rfl, rfl⟩

theorem witness_SoftResetKeepsLinkCapacityAndAdminRegisters : live.host.linkUsable = true := rfl

theorem witness_HostLinkResetClosesTheWindow : (live.setLinkUsable false).host.linkUsable = false := rfl

theorem waiting_steps : ∃ t, step waiting = .next t := ⟨_, rfl⟩

theorem witness_StepKeepsCleanerSound : waiting.CleanerSound ∧ ∃ t, step waiting = .next t :=
  ⟨⟨by decide, by decide, by decide, by decide⟩, waiting_steps⟩

theorem witness_StepKeepsMediaSound : waiting.MediaSound ∧ ∃ t, step waiting = .next t :=
  ⟨⟨by decide, by decide, by decide, by decide, by decide⟩, waiting_steps⟩

theorem witness_StepKeepsFramesCanonical :
    ({ waiting with frames := [(0, 1), (4095, 7)] } : State).FramesCanonical ∧
      ∃ t, step { waiting with frames := [(0, 1), (4095, 7)] } = .next t := ⟨by unfold State.FramesCanonical; decide, _, rfl⟩

theorem waiting_set (S : SetId) : waiting.cacheSet S = waiting.cacheSet 5 ∨ waiting.cacheSet S = CacheSet.reset := by
  by_cases h : S = 5
  · exact .inl (by rw [h])
  · refine .inr ?_
    show (live.setCacheSet 5 _).cacheSet S = _
    rw [State.cacheSet_setCacheSet_ne _ _ _ _ fun e => h e.symm]
    rfl

theorem witness_StepKeepsRecencyComplete : waiting.RecencyComplete ∧ ∃ t, step waiting = .next t := by
  refine ⟨fun S w => ?_, waiting_steps⟩
  rcases waiting_set S with h | h <;> rw [h] <;> revert w <;> decide +kernel

theorem witness_StepKeepsPinsLimited : waiting.PinsLimited ∧ ∃ t, step waiting = .next t := by
  refine ⟨fun S => ?_, waiting_steps⟩
  rcases waiting_set S with h | h <;> rw [h] <;> decide +kernel

theorem sr_setSr (s : State) (n m : RingId) (q : Option SubmissionRing) :
    (s.setSr n q).sr m = if n = m then q else s.sr m := by
  by_cases h : n = m
  · subst h
    simp [State.sr, State.setSr]
  · have hv : n.val ≠ m.val := fun e => h (Fin.ext e)
    simp [State.sr, State.setSr, h, hv]

theorem cr_setCr (s : State) (n m : RingId) (q : Option CompletionRing) :
    (s.setCr n q).cr m = if n = m then q else s.cr m := by
  by_cases h : n = m
  · subst h
    simp [State.cr, State.setCr]
  · have hv : n.val ≠ m.val := fun e => h (Fin.ext e)
    simp [State.cr, State.setCr, h, hv]

theorem witness_StepKeepsIndexesInRange : waiting.IndexesInRange ∧ ∃ t, step waiting = .next t := by
  refine ⟨⟨fun n q h => ?_, fun n r h => ?_⟩, waiting_steps⟩
  · fin_cases n <;> first | (cases h; decide) | cases h
  · fin_cases n <;> first | (cases h; decide) | cases h

theorem witness_StepKeepsNoRingsWhileDisabled :
    ({ State.reset with pending := [.linkLoss] } : State).NoRingsWhileDisabled ∧ State.reset.engine.state = .disabled ∧
      ∃ t, step { State.reset with pending := [.linkLoss] } = .next t := by
  refine ⟨fun _ => ⟨rfl, fun n => ⟨?_, ?_⟩⟩, rfl, _, rfl⟩ <;> (fin_cases n <;> rfl)

theorem witness_EngineMovesByItsTable :
    isResetCommand .linkLoss = false ∧ (∃ t, exec .linkLoss waiting = .next t) ∧
      isResetCommand (.registerWrite 0 4 7) = false ∧ isResetCommand (.registerWrite 0 4 8) = true :=
  ⟨rfl, ⟨_, rfl⟩, by decide, by decide⟩

/-- A response for slot 31 and block 5 with data is read as one. -/
theorem parsed {m : List Byte} {attempt result : Nat}
    (h : (match parseMessage m with
      | .response i a b r (some _) => i == 31 && a == attempt && b == 5 && r == result
      | _ => false) = true) : ∃ d, parseMessage m = .response 31 attempt 5 result (some d) := by
  split at h
  · next i a b r d e =>
    simp only [Bool.and_eq_true, beq_iff_eq] at h
    exact ⟨d, by rw [e, h.1.1.1, h.1.1.2, h.1.2, h.2]⟩
  · cases h

/-- The last piece commits; one that leaves a byte missing does not, nor does a response for a FREE slot land. -/
theorem witness_FramesChangeOnlyAtCommitAndLanding :
    (∃ t, exec .linkLoss waiting = .next t) ∧
    ((transferring live (transferFor .writeIn 4095 1 false false)).writeInOn 31 =
      some (transferFor .writeIn 4095 1 false false)) ∧
    (∀ x, (transferring live (transferFor .writeIn 4094 2 false false)).writeInOn 31 = some x →
      x.received + [(1 : Byte)].length ≠ 4096) ∧
    (∃ d, parseMessage (responseOf 0 0 true) = .response 31 0 5 0 (some d)) ∧ live.slot 31 = none ∧
    (live.setSlot 31 (some (slotOf .awaiting .fill 0 false))).slot 31 = some (slotOf .awaiting .fill 0 false) := by
  refine ⟨⟨_, rfl⟩, by decide +kernel, fun x h => ?_, parsed (by decide +kernel), by decide +kernel, by decide +kernel⟩
  rw [show (transferring live (transferFor .writeIn 4094 2 false false)).writeInOn 31 =
    some (transferFor .writeIn 4094 2 false false) by decide +kernel] at h
  cases h
  decide

theorem witness_LinkChangesOnlyAtAnnounceAndLoss : ∃ t, exec (.drawCompletes 0) waiting = .next t := ⟨_, rfl⟩

theorem witness_AdminRegistersChangeOnlyWhileDisabled : ∃ t, exec (.registerWrite 0x30 4 8) State.reset = .next t := ⟨_, rfl⟩

/-! Arrivals. -/

theorem witness_RefusedCommandOnlyPosts :
    ((arriving live 1 (readRecord 7 0 0)).arrival = some (arrivalOf 1 (readRecord 7 0 0)) ∧
      commandOf 1 (readRecord 7 0 0) = some .read ∧
      (arriving live 1 (readRecord 7 0 0)).intakeStatus .read 0 1 (readRecord 7 0 0) ≠ .ok) ∧
    (arriving live 1 0).arrival = some (arrivalOf 1 0) ∧ commandOf 1 0 = none := by decide +kernel

/-- Count 257; one block past the capacity of 100; the id of context 5; a full flush-all queue; exactly the capacity. -/
theorem witness_IntakeChecksInOrder :
    fieldsValid .read (readRecord 7 0 257) = false ∧
    (fieldsValid .read (readRecord 7 0 101) = true ∧
      live.media.capacity < Rec.firstBlock (readRecord 7 0 101) + Rec.blockCount (readRecord 7 0 101)) ∧
    (fieldsValid .read (readRecord 7 0 100) = true ∧
      Rec.firstBlock (readRecord 7 0 100) + Rec.blockCount (readRecord 7 0 100) ≤ live.media.capacity ∧
      (awaiting live (bopOf .read 5)).command 5 =
        some { arrivedCommand 1 true (readRecord 7 5 1) with state := .running, outstanding := 1 } ∧
      Rec.commandId (readRecord 7 5 1) = Rec.commandId (readRecord 7 0 100)) ∧
    (fieldsValid .flushAll (recordOf [(0, 1, 4)]) = true ∧ 16 ≤ (List.replicate 16 (0 : CtxId)).length) ∧
    (∀ d, live.command d = none) ∧ live.commands.flushAllQueue.length < 16 ∧ live.commands.noticeRequests.length < 4 := by
  decide +kernel

/-- A command that ends, one whose last block operation completes, one with two outstanding, and a split queue that a freed block operation
goes to: of a command with 2 blocks, 0 or 1 of them created. -/
theorem witness_CompletionIsPosted :
    ((awaiting live (bopOf .read 5)).command 5).isSome = true ∧ live.sr 1 = some (ring 1) ∧
      live.cr 1 = some (newCr 0x40000 4 3 true 2 0) ∧ (newCr 0x40000 4 3 true 2 0).state = .active ∧
      (newCr 0x40000 4 3 true 2 0).postQueue = [] ∧ (newCr 0x40000 4 3 true 2 0).writeInFlight = none ∧
      ({ newCr 0x40000 4 3 true 2 0 with writeInFlight := some 127 } : CompletionRing).writeInFlight = some 127 ∧
      ((busyPool 1).command 5).any (fun c => c.state == .running && decide (c.outstanding ≤ 1)) = true ∧
      ((busyPool 2).command 5).any (fun c => c.outstanding == 2) = true ∧
      (let c : Command := { arrivedCommand 1 true (readRecord 7 0 2) with state := .splitting }
       commandOf c.sr c.record = some .read ∧ CommandKind.bopKind .read = some .read ∧
       c.created + 1 < Rec.blockCount c.record ∧ Rec.blockCount c.record ≤ ({ c with created := 1 } : Command).created + 1) := by
  decide +kernel

theorem witness_CompletionIsDropped :
    let s := (awaiting live (bopOf .read 5)).setCr 1 (some { newCr 0x40000 4 3 true 2 0 with state := .faulted })
    (s.command 5).isSome = true ∧ s.sr 1 = some (ring 1) ∧ (ring 1).boundCr = 1 ∧
      s.cr 1 = some { newCr 0x40000 4 3 true 2 0 with state := .faulted } := by decide +kernel

theorem witness_CompletionRecordLayout :
    (let cmd : Command := { arrivedCommand 15 true (readRecord 0xFFFF 0 1) with failing := some 255 }
     4095 < 4096 ∧ ∀ k, cmd.failing = some k → k < 256) ∧
    (let n : Notice := { faultClass := 2, count := 65535, first := some (.link .lost 32) }
     n.count < 65536 ∧ n.first = some (.link .lost 32) ∧ 32 ≤ 32) ∧
    (State.reset.MediaSound ∧ State.reset.CleanerSound) ∧
    ((0xFF : Byte).toNat = (31 : SlotId).val + 32 * 7 ∧ (List.replicate 4096 (7 : Byte)).length = 4096 ∧
      (3 : Byte).toNat % 2 = 1 ∧ (2 : Byte).toNat % 2 = 0) := by
  refine ⟨⟨by decide, fun k h => ?_⟩, by decide, by unfold State.MediaSound State.CleanerSound; decide +kernel, by decide +kernel⟩
  cases h
  decide

theorem witness_RangeCommandSplits :
    (arriving (busyPool 1022) 1 (readRecord 8 0 2)).Accepts .read (arrivalOf 1 (readRecord 8 0 2)) ∧
    CommandKind.bopKind .read = some .read ∧
    (arriving (busyPool 1022) 1 (readRecord 8 0 2)).commands.splitQueue = [] ∧
    Rec.blockCount (readRecord 8 0 2) ≤ (arriving (busyPool 1022) 1 (readRecord 8 0 2)).freeBops ∧
    (arriving (busyPool 1023) 1 (readRecord 8 0 2)).Accepts .read (arrivalOf 1 (readRecord 8 0 2)) ∧
    (arriving (busyPool 1023) 1 (readRecord 8 0 2)).freeBops < Rec.blockCount (readRecord 8 0 2) ∧
    (arriving { busyPool 0 with commands := { (busyPool 0).commands with splitQueue := [5] } } 1 (readRecord 8 0 2)).Accepts
      .read (arrivalOf 1 (readRecord 8 0 2)) :=
  ⟨accepts (by decide +kernel), rfl, by decide +kernel, by decide +kernel, accepts (by decide +kernel), by decide +kernel,
    accepts (by decide +kernel)⟩

def flushAllRecord : Record := recordOf [(0, 1, 4)]

/-- An arrival behind a walk, into an empty queue with one unclean line, and with none; then the judgements of a queue, and of an active
flush-all whose count is 0 or not. -/
theorem witness_FlushAllArrives :
    (arriving { live with writeBack := { live.writeBack with walk := some ⟨0, .zero⟩ } } 1 flushAllRecord).Accepts .flushAll
      (arrivalOf 1 flushAllRecord) ∧
    ((arriving { live with writeBack := { live.writeBack with unclean0 := 1 } } 1 flushAllRecord).Accepts .flushAll
      (arrivalOf 1 flushAllRecord) ∧ live.commands.flushAllQueue = [] ∧ live.writeBack.activeFlushAll = none ∧
      live.writeBack.walk = none ∧ 0 < ({ live with writeBack := { live.writeBack with unclean0 := 1 } } : State).unclean .zero) ∧
    ((arriving live 1 flushAllRecord).Accepts .flushAll (arrivalOf 1 flushAllRecord) ∧ live.unclean .zero = 0) ∧
    (let f : FlushAllRecord := { oldEpoch := .one, failures := 1, worst := some .mediaFault }
     let s : State := { live with
      writeBack := { live.writeBack with activeFlushAll := some f, unclean0 := 1 },
      commands := { live.commands with flushAllQueue := [5] } }
     s.writeBack.activeFlushAll = some f ∧ s.commands.flushAllQueue = [5] ∧ s.unclean f.oldEpoch = 0 ∧
      s.unclean ({ f with oldEpoch := .zero } : FlushAllRecord).oldEpoch ≠ 0) :=
  ⟨accepts (by decide +kernel), ⟨accepts (by decide +kernel), rfl, rfl, rfl, by decide +kernel⟩,
    ⟨accepts (by decide +kernel), rfl⟩, by decide +kernel⟩

/-! Rings. -/

def createSrRecord (n m : Nat) : Record := recordOf [(0, 1, 0x40), (4, 1, n), (5, 1, m), (6, 1, 8), (8, 2, 4096), (16, 8, 64)]
def createCrRecord (n : Nat) : Record := recordOf [(0, 1, 0x41), (4, 1, n), (6, 1, 1), (8, 2, 2), (16, 8, 64)]
def deleteRecord (op n : Nat) : Record := recordOf [(0, 1, op), (4, 1, n)]

theorem witness_SubmissionRingIsCreated :
    (∀ n ∈ [0, 1, 15], (arriving live 0 (createSrRecord n 1)).Accepts .createSr (arrivalOf 0 (createSrRecord n 1))) ∧
    (arriving live 0 (createSrRecord 15 2)).Accepts .createSr (arrivalOf 0 (createSrRecord 15 2)) ∧
    Rec.ringId (Rec.targetRing (createSrRecord 0 1)) = 0 ∧ live.sr 1 ≠ none ∧ (∀ r, live.cr 2 = some r → r.state ≠ .active) ∧
    Rec.ringId (Rec.targetRing (createSrRecord 15 1)) = 15 ∧ live.sr 15 = none ∧
    live.cr (Rec.ringId (Rec.boundCr (createSrRecord 15 1))) = some (newCr 0x40000 4 3 true 2 0) := by
  refine ⟨fun n h => ?_, accepts (by decide +kernel), by decide +kernel, by decide +kernel, fun r h => ?_, by decide +kernel,
    by decide +kernel, by decide +kernel⟩
  · simp only [List.mem_cons, List.not_mem_nil, or_false] at h
    rcases h with rfl | rfl | rfl <;> exact accepts (by decide +kernel)
  · cases h

theorem witness_CompletionRingIsCreated :
    (∀ n ∈ [0, 1, 15], (arriving live 0 (createCrRecord n)).Accepts .createCr (arrivalOf 0 (createCrRecord n))) ∧
    Rec.ringId (Rec.targetRing (createCrRecord 0)) = 0 ∧ live.cr 1 ≠ none ∧
    Rec.ringId (Rec.targetRing (createCrRecord 15)) = 15 ∧ live.cr 15 = none := by
  refine ⟨fun n h => ?_, by decide +kernel, by decide +kernel, by decide +kernel, by decide +kernel⟩
  simp only [List.mem_cons, List.not_mem_nil, or_false] at h
  rcases h with rfl | rfl | rfl <;> exact accepts (by decide +kernel)

def drainingRing : SubmissionRing := { ring 1 with state := .draining 2 9 }

theorem witness_SubmissionRingIsDeleted :
    (∀ n ∈ [0, 1, 15], (arriving live 0 (deleteRecord 0x42 n)).Accepts .deleteSr (arrivalOf 0 (deleteRecord 0x42 n))) ∧
    live.sr 15 = none ∧ (live.setSr 1 (some drainingRing)).sr 1 = some drainingRing ∧
    live.sr 1 = some (ring 1) ∧ (ring 1).state = .active ∧ (ring 1).fetchInFlight = false ∧
    (arriving live 0 (deleteRecord 0x42 1)).srInFlight 1 = false ∧
    (awaiting live (bopOf .read 5)).srInFlight 1 = true := by
  refine ⟨fun n h => ?_, by decide +kernel, by decide +kernel, by decide +kernel, rfl, rfl, by decide +kernel,
    by decide +kernel⟩
  simp only [List.mem_cons, List.not_mem_nil, or_false] at h
  rcases h with rfl | rfl | rfl <;> exact accepts (by decide +kernel)

theorem witness_CompletionRingIsDeleted :
    (∀ n ∈ [0, 1, 15], (arriving live 0 (deleteRecord 0x43 n)).Accepts .deleteCr (arrivalOf 0 (deleteRecord 0x43 n))) ∧
    live.cr 15 = none ∧ live.sr 1 = some (ring 1) ∧ (ring 1).boundCr = 1 ∧
    (live.setSr 1 none).cr 1 ≠ none ∧ ∀ m q, (live.setSr 1 none).sr m = some q → q.boundCr ≠ 1 := by
  refine ⟨fun n h => ?_, by decide +kernel, by decide +kernel, rfl, by decide +kernel, fun m q h => ?_⟩
  · simp only [List.mem_cons, List.not_mem_nil, or_false] at h
    rcases h with rfl | rfl | rfl <;> exact accepts (by decide +kernel)
  · fin_cases m <;> first | (cases h; decide) | cases h

def weightRecord (n : Nat) : Record := recordOf [(0, 1, 0x44), (4, 1, n), (6, 1, 8)]
def optionsRecord (n on count : Nat) : Record := recordOf [(0, 1, 0x44), (4, 1, n), (5, 1, 1), (7, 1, on), (12, 1, count)]

theorem witness_RingOptionsAreSet :
    (∀ n ∈ [0, 1], (arriving live 0 (weightRecord n)).Accepts .setRingOptions (arrivalOf 0 (weightRecord n))) ∧
    Rec.ringKind (weightRecord 1) = 0 ∧ live.sr 1 = some (ring 1) ∧ (ring 1).state = .active ∧
    (∀ count ∈ [1, 2], (arriving live 0 (optionsRecord 1 1 count)).Accepts .setRingOptions
      (arrivalOf 0 (optionsRecord 1 1 count))) ∧
    Rec.ringKind (optionsRecord 1 1 1) ≠ 0 ∧ (∀ r, live.cr 15 = some r → r.state ≠ .active) ∧
    live.cr 1 = some (newCr 0x40000 4 3 true 2 0) ∧
    (∃ unsignalled : Nat, 1 ≤ unsignalled ∧ Rec.setCoalesceCount (optionsRecord 1 1 1) ≤ unsignalled ∧
      ¬Rec.setCoalesceCount (optionsRecord 1 1 2) ≤ unsignalled) := by
  refine ⟨fun n h => ?_, by decide +kernel, by decide +kernel, rfl, fun n h => ?_, by decide +kernel, fun r h => ?_,
    by decide +kernel, 1, by decide +kernel, by decide +kernel, by decide +kernel⟩
  · simp only [List.mem_cons, List.not_mem_nil, or_false] at h
    rcases h with rfl | rfl <;> exact accepts (by decide +kernel)
  · simp only [List.mem_cons, List.not_mem_nil, or_false] at h
    rcases h with rfl | rfl <;> exact accepts (by decide +kernel)
  · cases h

/-! Parameters and other admin commands. -/

def cleanerRecord (high low : Nat) : Record := recordOf [(0, 1, 0x45), (8, 4, high), (12, 4, low)]
def paramsRecord (timeout retry : Nat) : Record := recordOf [(0, 1, 0x46), (8, 4, timeout), (12, 1, retry)]
def bufferRecord (op : Nat) : Record := recordOf [(0, 1, op)]
def setRecord (op n : Nat) : Record := recordOf [(0, 1, op), (8, 2, n)]

theorem witness_CleanerMarksAreSet :
    ((arriving live 0 (cleanerRecord 32769 0)).arrival = some (arrivalOf 0 (cleanerRecord 32769 0)) ∧
      commandOf 0 (cleanerRecord 32769 0) = some .setCleaner ∧ ¬Rec.highMark (cleanerRecord 32769 0) ≤ 32768 ∧
      ¬Rec.lowMark (cleanerRecord 5 5) < Rec.highMark (cleanerRecord 5 5)) ∧
    (arriving live 0 (cleanerRecord 32768 32767)).Accepts .setCleaner (arrivalOf 0 (cleanerRecord 32768 32767)) :=
  ⟨by decide +kernel, accepts (by decide +kernel)⟩

theorem witness_MediaParametersAreSet :
    ((arriving live 0 (paramsRecord 10001 0)).arrival = some (arrivalOf 0 (paramsRecord 10001 0)) ∧
      commandOf 0 (paramsRecord 10001 0) = some .setMediaParams ∧ ¬Rec.mediaTimeout (paramsRecord 10001 0) ≤ 10000 ∧
      ¬1 ≤ Rec.mediaTimeout (paramsRecord 0 0) ∧ ¬Rec.retryLimit (paramsRecord 1 8) ≤ 7) ∧
    (arriving live 0 (paramsRecord 10000 7)).Accepts .setMediaParams (arrivalOf 0 (paramsRecord 10000 7)) :=
  ⟨by decide +kernel, accepts (by decide +kernel)⟩

theorem witness_GeometryAndSnapshotAreTaken :
    (arriving live 0 (bufferRecord 0x47)).Accepts .reportGeometry (arrivalOf 0 (bufferRecord 0x47)) ∧
    (arriving live 0 (setRecord 0x49 4095)).Accepts .readSet (arrivalOf 0 (setRecord 0x49 4095)) :=
  ⟨accepts (by decide +kernel), accepts (by decide +kernel)⟩

/-- Class 4 is unreported, and no class below it. -/
def faulty : State := live.reportFault (.hostBus 0 .readOut 1 7)

/-- An arrival with nothing unreported, one with class 4 unreported, and a request that waits while class 4 is unreported. -/
theorem witness_NoticeIsAwaited :
    (arriving live 0 (bufferRecord 0x48)).Accepts .awaitNotice (arrivalOf 0 (bufferRecord 0x48)) ∧
    (∀ k : Fin 5, (arriving live 0 (bufferRecord 0x48)).faults.entries[k].unreported = false) ∧
    (arriving faulty 0 (bufferRecord 0x48)).Accepts .awaitNotice (arrivalOf 0 (bufferRecord 0x48)) ∧
    (arriving faulty 0 (bufferRecord 0x48)).faults.entries[(4 : Fin 5)].unreported = true ∧
    (∀ j : Fin 5, j < 4 → (arriving faulty 0 (bufferRecord 0x48)).faults.entries[j].unreported = false) ∧
    (let s : State := { holding faulty 5 .executing 0 (bufferRecord 0x48) 0 with
      commands := { (holding faulty 5 .executing 0 (bufferRecord 0x48) 0).commands with noticeRequests := [5] } }
     s.commands.noticeRequests = [5] ∧ (5 : CtxId) ∉ ([] : List CtxId) ∧ (s.command 5).isSome = true ∧
      s.faults.entries[(4 : Fin 5)].unreported = true) :=
  ⟨accepts (by decide +kernel), by decide +kernel, accepts (by decide +kernel), by decide +kernel, by decide +kernel,
    by decide +kernel⟩

/-- Set 4,095 is fenced, with way 7 as the failed way. -/
def fenced (releasing : Option CtxId) : State :=
  live.setFence 4095 { FenceRecord.reset with failedWay := some 7, releasing := releasing }

theorem witness_FencedSetIsReleased :
    (arriving live 0 (setRecord 0x4A 4095)).Accepts .unfenceSet (arrivalOf 0 (setRecord 0x4A 4095)) ∧
    (live.cacheSet 4095).fence.failedWay = none ∧
    (arriving (fenced none) 0 (setRecord 0x4A 4095)).Accepts .unfenceSet (arrivalOf 0 (setRecord 0x4A 4095)) ∧
    ((fenced none).cacheSet 4095).fence.failedWay = some 7 ∧ ((fenced none).cacheSet 4095).fence.releasing = none ∧
    ((fenced (some 9)).cacheSet 4095).fence.releasing = some 9 ∧ (fenced (some 9)).emptyOfWork 4095 = true ∧
    ((fenced (some 9)).setWaitList 4095 [bopOf .read 4095]).emptyOfWork 4095 = false :=
  ⟨accepts (by decide +kernel), by decide +kernel, accepts (by decide +kernel), by decide +kernel, by decide +kernel,
    by decide +kernel, by decide +kernel, by decide +kernel⟩

def abortRecord (ring id : Nat) : Record := recordOf [(0, 1, 0x4B), (2, 2, 99), (4, 1, ring), (8, 2, id)]

/-- Context 5 holds this command of ring `n`. -/
def target (n : RingId) (r : Record) (aborting : Bool) : State :=
  live.setCtx 5 (.holding { arrivedCommand n true r with aborting := aborting })

/-- Context 5 waits for a notice. -/
def awaitingNotice : State :=
  let s := target 0 (bufferRecord 0x48) false
  { s with commands := { s.commands with noticeRequests := [5] } }

/-- Context 5 holds a FLUSH ALL, a flush-all is active, and this is the flush-all queue. -/
def queuedFlushAll (q : List CtxId) : State :=
  let s := target 1 flushAllRecord false
  { s with
    commands := { s.commands with flushAllQueue := q },
    writeBack := { s.writeBack with activeFlushAll := some { oldEpoch := .zero, failures := 0, worst := none } } }

/-- What `State.AbortSeeks` says of context 5, and that no lower context holds a command, as a test that can be run. -/
def soughtFive (s : State) (n : RingId) (id : Nat) (cmd : Command) : Bool :=
  decide (s.command 5 = some cmd ∧ cmd.sr = n ∧ Rec.commandId cmd.record = id ∧ cmd.state ≠ .posting ∧
    (n = 0 → commandOf cmd.sr cmd.record = some .awaitNotice ∧ 5 ∈ s.commands.noticeRequests) ∧
    ∀ d : CtxId, d < 5 → s.command d = none) && (commandOf cmd.sr cmd.record).isSome

theorem sought {s : State} {n : RingId} {id : Nat} {cmd : Command} (h : soughtFive s n id cmd = true) :
    s.AbortSeeks n id 5 cmd ∧ ∀ d x, d < 5 → ¬s.AbortSeeks n id d x := by
  simp only [soughtFive, Bool.and_eq_true, decide_eq_true_eq] at h
  obtain ⟨⟨h1, h2, h3, h4, h5, h6⟩, h7⟩ := h
  refine ⟨⟨h1, h2, h3, h4, h5, fun _ => Option.isSome_iff_exists.1 h7⟩, fun d x hd hx => ?_⟩
  rw [State.AbortSeeks, h6 d hd] at hx
  cases hx.1

/-- No target; a marked one; an AWAIT NOTICE; a FLUSH ALL behind the active one, and the active one itself; a READ. Then a target that still
splits, and one with a block operation in a queue. -/
theorem witness_AbortActsOnItsTarget :
    ((arriving live 0 (abortRecord 1 7)).Accepts .abort (arrivalOf 0 (abortRecord 1 7)) ∧
      ∀ t cmd, ¬(arriving live 0 (abortRecord 1 7)).AbortSeeks 1 7 t cmd) ∧
    (∀ aborting ∈ [true, false],
      (arriving (target 1 (readRecord 7 0 1) aborting) 0 (abortRecord 1 7)).Accepts .abort (arrivalOf 0 (abortRecord 1 7)) ∧
      (arriving (target 1 (readRecord 7 0 1) aborting) 0 (abortRecord 1 7)).AbortSeeks 1 7 5
        { arrivedCommand 1 true (readRecord 7 0 1) with aborting := aborting }) ∧
    ((arriving awaitingNotice 0 (abortRecord 0 0)).Accepts .abort (arrivalOf 0 (abortRecord 0 0)) ∧
      (arriving awaitingNotice 0 (abortRecord 0 0)).AbortSeeks 0 0 5 (arrivedCommand 0 true (bufferRecord 0x48))) ∧
    (∀ q ∈ [[6, 5], [5]],
      (arriving (queuedFlushAll q) 0 (abortRecord 1 0)).Accepts .abort (arrivalOf 0 (abortRecord 1 0)) ∧
      (arriving (queuedFlushAll q) 0 (abortRecord 1 0)).AbortSeeks 1 0 5 (arrivedCommand 1 true flushAllRecord)) ∧
    (commandOf 1 flushAllRecord = some .flushAll ∧ (queuedFlushAll [6, 5]).commands.flushAllQueue.head? ≠ some 5 ∧
      (queuedFlushAll [5]).writeBack.activeFlushAll.isSome = true ∧ live.writeBack.activeFlushAll = none ∧
      commandOf 1 (readRecord 7 0 1) = some .read ∧ CommandKind.bopKind .read = some .read) ∧
    (∀ n ∈ [0, 1], (holding live 5 .splitting 1 (readRecord 7 0 2) n).command 5 =
      some { arrivedCommand 1 true (readRecord 7 0 2) with state := .splitting, outstanding := n }) ∧
    (∃ b ∈ [bopOf .read 5], b.ctx = 5) ∧ ∀ b ∈ [bopOf .read 5], b.ctx ≠ 6 := by
  refine ⟨⟨accepts (by decide +kernel), fun t cmd h => ?_⟩, fun a h => ?_,
    ⟨accepts (by decide +kernel), (sought (by decide +kernel)).1⟩, fun q h => ?_, by decide +kernel, by decide +kernel,
    by decide, by decide⟩
  · have none_held : ∀ d : CtxId, (arriving live 0 (abortRecord 1 7)).command d = none := by decide +kernel
    rw [State.AbortSeeks, none_held t] at h
    cases h.1
  · simp only [List.mem_cons, List.not_mem_nil, or_false] at h
    rcases h with rfl | rfl <;> exact ⟨accepts (by decide +kernel), (sought (by decide +kernel)).1⟩
  · simp only [List.mem_cons, List.not_mem_nil, or_false] at h
    rcases h with rfl | rfl <;> exact ⟨accepts (by decide +kernel), (sought (by decide +kernel)).1⟩

/-! Engine Control and the register window. -/

def configured (sizes : BitVec 32) : State :=
  { State.reset with host := { State.reset.host with
      adminSubmissionBase := 0x10000, adminCompletionBase := 0xFFFFFFFFFFFFFF80, adminRingSizes := sizes } }

/-- Sizes 4,096 and 8 at the top of the address space are valid; 4,096 and 7, and 4,096 and 9, are not. -/
theorem witness_EnableIsJudged :
    (configured 0x00081000).host.linkUsable = true ∧ (configured 0x00081000).engine.state = .disabled ∧
    (8 ≤ 0x1000 ∧ 0x1000 ≤ 4096 ∧ 8 ≤ 8 ∧ 0xFFFFFFFFFFFFFF80 + 16 * 8 ≤ 2 ^ 64 ∧
      (configured 0x00081000).adminRegistersValid = true) ∧
    (configured 0x00071000).adminRegistersValid = false ∧ (configured 0x00091000).adminRegistersValid = false := by
  decide +kernel

/-- Every engine state; a QUIESCING engine whose contexts are FREE, with nothing unclean, and one with a READ in context 5. -/
theorem witness_ControlWriteActsByState :
    (∀ e : EngineState, (inState e).host.linkUsable = true ∧ (inState e).engine.state = e) ∧
    (∀ c : CtxId, (inState .quiescing).ctx c = .free) ∧
    (inState .quiescing).writeBack.unclean0 + (inState .quiescing).writeBack.unclean1 = 0 ∧
    commandOf 0 (bufferRecord 0x48) = some .awaitNotice ∧
    (busyPool 1).ctx 5 ≠ .free ∧ commandOf 1 (readRecord 7 0 1) ≠ some .awaitNotice :=
  ⟨fun _ => ⟨rfl, rfl⟩, by decide +kernel, by decide +kernel, by decide +kernel, by decide +kernel, by decide +kernel⟩

theorem witness_QuiesceClearedReturnsToRunning :
    (inState .quiescing).host.linkUsable = true ∧ (inState .quiescing).engine.state = .quiescing ∧
      (inState .quiesced).engine.state = .quiesced := ⟨rfl, rfl, rfl⟩

/-- Tail 7 is the last of 8 entries; 8 is past them. -/
theorem witness_TailWriteActsByState :
    live.host.linkUsable = true ∧ live.sr 15 = none ∧ live.sr 1 = some (ring 1) ∧ (ring 1).state = .active ∧
      (7 : BitVec 32).toNat < (ring 1).entries ∧ (ring 1).entries ≤ (8 : BitVec 32).toNat ∧
      drainingRing.state ≠ .active := by decide +kernel

/-- Tail 3 is the end of the span from head 2, and 0 is past it. A fault finds context 5 in the post queue. -/
theorem witness_HeadWriteActsByState :
    let r : CompletionRing := { newCr 0 4 0 true 2 0 with head := 2, tail := 3 }
    live.host.linkUsable = true ∧ live.cr 15 = none ∧ (live.setCr 1 (some r)).cr 1 = some r ∧ r.state = .active ∧
      (3 < r.entries ∧ (3 + r.entries - r.head) % r.entries ≤ (r.tail + r.entries - r.head) % r.entries) ∧
      ¬(0 + r.entries - r.head) % r.entries ≤ (r.tail + r.entries - r.head) % r.entries ∧
      ({ r with state := .faulted } : CompletionRing).state = .faulted ∧
      ((holding live 5 .posting 1 (readRecord 7 0 1) 0).setCr 1 (some { r with postQueue := [5] })).cr 1 =
        some { r with postQueue := [5] } ∧
      ((holding live 5 .posting 1 (readRecord 7 0 1) 0).command 5).isSome = true ∧ live.sr 0 = some (ring 0) ∧
      live.engine.state ≠ .disabled ∧ live.engine.state ≠ .halted := by decide +kernel

/-- The offsets at the ends of each range. -/
theorem witness_RegisterWriteIsRouted :
    live.host.linkUsable = true ∧ State.reset.engine.state = .disabled ∧ live.engine.state ≠ .disabled ∧
      (0x020 ≤ 0x033 ∧ 0x033 < 0x034) ∧ ¬((4 = 4 ∨ 4 = 8) ∧ 0x022 % 4 = 0) ∧ (0x004 ≤ 0x01F ∧ 0x01F < 0x020) ∧
      (live.writeBack.unclean0 + live.writeBack.unclean1 ≤ 32768 ∧ live.writeBack.dirtyOrder.length ≤ 32768) ∧
      (∀ offset ∈ [0x000, 0x008, 0x030, 0x100, 0x180], offset % 8 = 0 ∧ offset ≠ 0x020 ∧ offset ≠ 0x028) ∧
      (∀ offset ∈ [0x034, 0x0FF, 0x140, 0x17F, 0x1C0],
        (0x034 ≤ offset ∧ offset < 0x100) ∨ (0x140 ≤ offset ∧ offset < 0x180) ∨ 0x1C0 ≤ offset) ∧ ¬((8 = 4 ∨ 8 = 8) ∧ 0x00C % 8 = 0) ∧
      ∀ offset ∈ [0x004, 0x014, 0x01F, 0x034, 0x0FF, 0x140, 0x17F, 0x1C0],
        (offset = 0x004 ∨ (0x014 ≤ offset ∧ offset < 0x020) ∨ (0x034 ≤ offset ∧ offset < 0x100) ∨
          (0x140 ≤ offset ∧ offset < 0x180) ∨ 0x1C0 ≤ offset) := by
  decide

theorem witness_VectorAndTimerSendMessages :
    let r : CompletionRing := { newCr 0 4 15 true 2 5 with unsignalled := 1, timer := some 5 }
    ({ live with host := { live.host with vectorPending := live.host.vectorPending.set 15 true } } : State).host.vectorPending[15]
      = true ∧ live.host.vectorPending[15] = false ∧ (live.setCr 1 (some r)).cr 1 = some r ∧
      (r.timer.isSome = true ∧ 1 ≤ r.unsignalled) ∧
      ¬({ r with unsignalled := 0 } : CompletionRing).timer.isSome = false := by decide +kernel

/-! Fetching and posting. -/

def fetching : State := { live with rings := { live.rings with fetch := some { ctx := 127, sr := 1 } } }

theorem witness_FetchEnds :
    fetching.rings.fetch = some { ctx := 127, sr := 1 } ∧ fetching.sr 1 = some (ring 1) ∧ (ring 1).state = .active ∧
      fetching.cr 1 = some (newCr 0x40000 4 3 true 2 0) ∧ (fetching.setSr 1 (some drainingRing)).sr 1 = some drainingRing ∧
      drainingRing.state = .draining 2 9 := by decide +kernel

/-- With 8 FREE contexts an I/O ring is not eligible; with 9 it is. -/
theorem test_admin_reserve :
    let take (n : Nat) : State :=
      { live with commands := { live.commands with
          contexts := Vector.ofFn fun c : CtxId => if c.val < n then Context.fetching 1 false else Context.free } }
    (take 120).eligible 1 = false ∧ (take 120).eligible 0 = true ∧ (take 119).eligible 1 = true := by decide +kernel

/-- SR0 empty, SR1 eligible with this many grants used, SR2 eligible too. -/
def rivals (used : Nat) : State :=
  let s := (live.setSr 0 (some { ring 0 with tail := 1 })).setSr 2 (some (ring 1))
  { s with rings := { s.rings with grantsUsed := used } }

theorem witness_ArbiterGrantsInTurn :
    fetching.rings.fetch ≠ none ∧ (∀ n, State.reset.eligible n = false) ∧
    (live.rings.fetch = none ∧ live.eligible 0 = true) ∧
    ((rivals 1).eligible 0 = false ∧ (rivals 1).eligible 1 = true ∧ (rivals 1).rings.currentSr = 1 ∧
      (rivals 1).sr 1 = some (ring 1) ∧ (rivals 1).rings.grantsUsed < (ring 1).weight) ∧
    ((ring 1).weight ≤ (rivals 2).rings.grantsUsed ∧ (rivals 2).eligible 2 = true ∧
      ∀ m : RingId, (rivals 2).eligible m = true →
        (if (rivals 2).rings.currentSr < 2 then 2 else 2 + 16) ≤
          (if (rivals 2).rings.currentSr < m then m.val else m.val + 16)) ∧
    (live.ctx 0 = .free ∧ ∀ d : CtxId, d < 0 → live.ctx d ≠ .free) := by decide +kernel

theorem witness_CompletionWriteEnds :
    let r : CompletionRing := { newCr 0 4 0 true 2 0 with tail := 3, unsignalled := 1, writeInFlight := some 127 }
    (live.setCr 1 (some r)).cr 1 = some r ∧ r.writeInFlight = some 127 ∧ r.state = .active ∧
      (r.interruptsOn = true ∧ r.coalesceCount ≤ r.unsignalled + 1) ∧
      ¬({ r with unsignalled := 0 } : CompletionRing).coalesceCount ≤ 0 + 1 ∧
      ({ r with state := .faulted } : CompletionRing).state = .faulted := by decide +kernel

/-! Lookup. -/

/-- Each kind of block operation awaits lookup, on a line in each state that a clause of the statement names. -/
theorem witness_LookupHits :
    (∀ k ∈ [BopKind.read, .write, .pin, .discard], (awaiting (withLine (.filling 5 .media) 0 0 []) (bopOf k 5)).Awaits 5 0
      (bopOf k 5)) ∧
    (∀ st ∈ [LineState.filling 5 .media, .clean 5, .dirty 5 .zero, .cleaning 5 .zero, .redirty 5 .zero .one],
      (awaiting (withLine st 0 0 []) (bopOf .flush 5)).Awaits 5 0 (bopOf .flush 5) ∧
      ((awaiting (withLine st 0 0 []) (bopOf .flush 5)).command 5).isSome = true ∧
      (awaiting (withLine st 0 0 []) (bopOf .flush 5)).isFenced 5 = false ∧
      ((withLine st 0 0 []).cacheSet 5).badWay = none ∧ ((withLine st 0 0 []).cacheSet 5).hitWay 5 = some 0) ∧
    (((withLine (.clean 5) 0 0 [bopOf .read 5]).line line0).accessQueue ≠ [] ∧
      ((withLine (.clean 5) 0 1 []).line line0).judge .write = .waits ∧
      ((withLine (.clean 5) 0 0 []).line line0).judge .discard = .starts ∧
      ((withLine (.clean 5) 255 0 []).line line0).pins = 255 ∧
      ((withLine (.clean 5) 0 0 []).cacheSet 5).otherPinned 0 = 0 ∧
      0 < ((withLine (.clean 5) 1 0 []).line line0).pins) := by
  unfold State.Awaits
  decide +kernel

/-- Set 5 with its first `n` ways FILLING, so that no way of 8 can be taken. -/
def fillingWays (n : Nat) : State :=
  live.setCacheSet 5 { CacheSet.reset with ways := Vector.ofFn fun w : WayId =>
    if w.val < n then { Line.reset with state := .filling (5 + 4096 * (w.val + 1)) .media } else Line.reset }

/-- A set with a way to be given up: DIRTY in the old epoch of an active flush-all, or CLEAN; with a slot for it in each state. Then the
lookups: in a fenced set, on a bad code, and on a miss in each state of the link and the set. -/
theorem witness_LookupMissesOrMeetsAFence :
    (((withLine (.dirty 5 .one) 0 0 []).line line0).state.epoch = some .one ∧
      ((withLine (.clean 5) 0 0 []).line line0).state.isUnclean = false ∧
      (∀ st ∈ [SlotState.drawing, .awaiting, .backoff, .redrawWait],
        (live.setSlot 31 (some (slotOf st .clean 0 false))).slot 31 = some (slotOf st .clean 0 false) ∧
          (slotOf st .clean 0 false).line = line0 ∧ (slotOf st .clean 0 false).state = st) ∧
      (slotOf .drawing .clean 0 true).orphan = true ∧
      (queuedFlushAll [5]).writeBack.activeFlushAll = some { oldEpoch := .zero, failures := 0, worst := none }) ∧
    (awaiting (fenced none) (bopOf .read 4095)).Awaits 5 0 (bopOf .read 4095) ∧
    (awaiting (fenced none) (bopOf .read 4095)).isFenced (setOf 4095) = true ∧
    (((withLine (.clean 5) 0 0 []).spoilCode line0).cacheSet 5).badWay = some 0 ∧
    ((live.cacheSet 5).badWay = none ∧ (live.cacheSet 5).hitWay 5 = none ∧ live.media.link = .up ∧
      State.reset.media.link = .down ∧ (live.cacheSet 5).waitList = [] ∧ (live.cacheSet 5).victim = some 0 ∧
      ((fillingWays 7).cacheSet 5).victim = some 7 ∧ ((fillingWays 8).cacheSet 5).victim = none ∧
      ((fillingWays 8).cacheSet 5).hitWay 5 = none) := by
  unfold State.Awaits
  decide +kernel

/-- Ways 0 to 6 CLEAN with pins, way 7 CLEAN without; then way 7 pinned too. -/
def cleanWays (pins7 : Nat) : CacheSet :=
  { CacheSet.reset with ways := Vector.ofFn fun w : WayId =>
      { Line.reset with state := .clean w.val, pins := if w.val < 7 then 1 else pins7 } }

/-- Way 7 DIRTY, with clean wanted or without. -/
def dirtyWay (wanted : Bool) : CacheSet :=
  { CacheSet.reset with
    ways := CacheSet.reset.ways.set 7 { Line.reset with state := .dirty 5 .zero, cleanWanted := wanted } }

/-- Besides the victims: a DIRTY way asks for its clean, and for none while one has clean wanted. A pass visits a READ of a
set that is fenced, has a bad code, misses or hits. -/
theorem witness_VictimIsChosen :
    (∀ w : WayId, CacheSet.reset.recency.count w = 1) ∧
    (CacheSet.reset.ways[(0 : WayId)].state = .invalid ∧
      ∀ v : WayId, v < 0 → CacheSet.reset.ways[v].state ≠ .invalid) ∧
    (∀ w : WayId, (cleanWays 0).recency.count w = 1 ∧ (cleanWays 0).ways[w].state ≠ .invalid) ∧
    (cleanWays 0).victim = some 7 ∧ (cleanWays 1).victim = none ∧
    ((∀ v : WayId, (dirtyWay false).ways[v].state.isCleaning = false ∧ (dirtyWay false).ways[v].cleanWanted = false) ∧
      (dirtyWay false).victimClean = some 7 ∧ (dirtyWay true).ways[(7 : WayId)].cleanWanted = true ∧
      (cleanWays 0).victimClean = none) ∧
    (setOf 5 = 5 ∧ bopOf .read 5 ∈ ((live.setWaitList 5 [bopOf .read 5]).cacheSet 5).waitList ∧
      bopOf .pin 5 ∉ ((live.setWaitList 5 [bopOf .read 5]).cacheSet 5).waitList ∧
      (live.setFence 5 { FenceRecord.reset with failedWay := some 7 }).isFenced 5 = true ∧
      (((withLine (.clean 5) 0 0 []).spoilCode line0).cacheSet 5).badWay = some 0 ∧
      (live.cacheSet 5).hitWay 5 = none ∧ (live.cacheSet 5).victim = some 0 ∧ ((fillingWays 8).cacheSet 5).victim = none ∧
      ((withLine (.clean 5) 0 0 []).cacheSet 5).hitWay 5 = some 0 ∧
      ((withLine (.clean 5) 0 0 []).line line0).judge .read = .starts) := by decide +kernel

theorem witness_CheckCodeGoesBadAlone :
    ((withLine (.clean 5) 0 0 []).line ⟨5, 0⟩).state ≠ .invalid ∧ (live.line ⟨4095, 7⟩).state = .invalid := by
  decide +kernel

/-! Transfers. -/

/-- Besides the transfers: a stable line with a queue whose head waits, conflicts or starts, and a line that is not stable. -/
theorem witness_ReadOutEnds :
    (let x := transferFor .readOut 0 0 false false
     ((transferring (withLine (.clean 5) 0 1 []) x).channel 31 = some x ∧ x.kind = .readOut ∧
      ((transferring (withLine (.clean 5) 0 1 []) x).command 5).isSome = true ∧ x.bop.ctx = 5 ∧ x.line = line0 ∧
      ((withLine (.clean 5) 0 1 []).line line0).state ≠ .invalid) ∧
     ((withLine .invalid 0 1 []).line line0).state = .invalid) ∧
    ((withLine (.clean 5) 0 1 [bopOf .write 5]).line line0).accessQueue = [bopOf .write 5] ∧
    ((withLine (.clean 5) 0 1 []).line line0).judge .write = .waits ∧
    ((withLine (.clean 5) 1 0 []).line line0).judge .discard = .conflict ∧
    (∀ k ∈ [BopKind.read, .write, .pin, .discard], ((withLine (.clean 5) 0 0 []).line line0).judge k = .starts) ∧
    ((withLine (.clean 5) 0 0 []).line line0).state.isStable = true ∧
    ((withLine (.filling 5 .host) 0 0 []).line line0).state.isStable = false := by decide +kernel

/-- One byte is missing; two are; the write-in has failed with one byte unanswered; data for no write-in. A redraw waits in slot 31 and in no
lower slot, for a REDIRTY line and for a CLEANING one. -/
theorem witness_WriteInGathersAndCommits :
    (transferring live (transferFor .writeIn 4095 1 false true)).channel 31 = some (transferFor .writeIn 4095 1 false true) ∧
    (transferFor .writeIn 4095 1 false true).takes 4095 [1] = true ∧ 4095 + [(1 : Byte)].length = 4096 ∧
    (transferFor .writeIn 4094 2 false false).takes 0 [1] = true ∧ 4094 + [(1 : Byte)].length ≠ 4096 ∧
    (transferFor .writeIn 0 1 true false).takes 0 [1] = true ∧ (transferFor .writeIn 0 1 true false).error = true ∧
    ((withLine (.clean 5) 0 0 []).line line0).state ≠ .invalid ∧ (live.line line0).state = .invalid ∧
    live.channel 31 = none ∧
    (live.setSlot 31 (some (slotOf .redrawWait .clean 0 false))).slot 31 = some (slotOf .redrawWait .clean 0 false) ∧
    (∀ j : SlotId, j < 31 → (live.setSlot 31 (some (slotOf .redrawWait .clean 0 false))).slot j = none) ∧
    ((withLine (.redirty 5 .zero .one) 0 0 []).line line0).state = .redirty 5 .zero .one := by decide +kernel

theorem witness_CommitMakesTheLineUnclean :
    live.writeBack.currentEpoch = .zero ∧ ((withLine (.clean 5) 0 0 []).line line0).state = .clean 5 ∧
    ((withLine (.filling 5 .host) 0 0 []).line line0).state = .filling 5 .host ∧
    ((withLine (.cleaning 5 .one) 0 0 []).line line0).state = .cleaning 5 .one ∧
    ((withLine (.dirty 5 .one) 0 0 []).line line0).state = .dirty 5 .one ∧
    ((withLine (.redirty 5 .one .zero) 0 0 []).line line0).state = .redirty 5 .one .zero := by decide +kernel

/-- Besides the transfer: the sets in which a detached READ is looked up again. -/
theorem witness_WriteInFails :
    (let x := transferFor .writeIn 0 4096 false false
     (transferring (withLine (.filling 5 .host) 0 0 []) x).channel 31 = some x ∧ x.kind = .writeIn ∧
      ((transferring (withLine (.filling 5 .host) 0 0 []) x).command 5).isSome = true ∧ 4095 < x.outstanding ∧
      x.error = false ∧ (transferFor .writeIn 0 1 true false).error = true ∧ 0 < (transferFor .writeIn 0 1 true false).outstanding ∧
      ((withLine (.filling 5 .host) 0 0 []).line line0).state.isFilling = true ∧
      ((withLine (.clean 5) 0 0 []).line line0).state.isFilling = false) ∧
    (fenced none).isFenced (setOf 4095) = true ∧ (((withLine (.clean 5) 0 0 []).spoilCode line0).cacheSet 5).badWay = some 0 ∧
    (live.isFenced 5 = false ∧ (live.cacheSet 5).badWay = none ∧ (live.cacheSet 5).hitWay 5 = none ∧
      (live.cacheSet 5).victim = some 0 ∧ ((fillingWays 8).cacheSet 5).victim = none ∧
      ((withLine (.filling 5 .media) 0 0 []).cacheSet 5).hitWay 5 = some 0) := by decide +kernel

/-! The media link. -/

/-- A slot that draws and one that does not. For the arbiter: slot 0 FREE and the link UP; a line on the urgent queue that is ready; one on the
dirty order list under pressure; a line that waits for its fill. -/
theorem witness_DrawCompletes :
    ((live.setSlot 31 (some (slotOf .drawing .clean 0 false))).slot 31 = some (slotOf .drawing .clean 0 false) ∧
      (slotOf .drawing .clean 0 false).state = .drawing ∧ (slotOf .backoff .clean 0 false).state ≠ .drawing) ∧
    (live.media.link = .up ∧ live.slot 0 = none ∧ ∀ j : SlotId, j < 0 → live.slot j ≠ none) ∧
    (let s := withLine (.dirty 5 .zero) 0 0 []
     let urgent : State := { s with writeBack := { s.writeBack with urgent := [line0] } }
     let pressed : State := { s with writeBack := { s.writeBack with dirtyOrder := [line0], pressure := true } }
     live.supply = none ∧ urgent.supply = some line0 ∧ pressed.supply = some line0 ∧
      (s.line line0).state.isDirty = true ∧ (s.line line0).exclusive = false ∧ (s.line line0).state = .dirty 5 .zero ∧
      (s.line line0).state.block = some 5 ∧ live.judgeFlushAll.issueOne = none ∧
      urgent.judgeFlushAll.issueOne.isSome = true) ∧
    (([5] : List SetId) ≠ [] ∧ (5 : SetId) ∈ ([5] : List SetId) ∧ (6 : SetId) ∉ ([5] : List SetId)) := by
  decide +kernel

/-- The four messages that the clauses name, slots that take them and one that does not, and the lines they act on. -/
theorem witness_ResponseIsJudged :
    (∃ d, parseMessage (responseOf 3 0 true) = .response 31 3 5 0 (some d)) ∧
    parseMessage (responseOf 3 0 false) = .response 31 3 5 0 none ∧
    parseMessage (responseOf 3 2 false) = .response 31 3 5 2 none ∧
    parseMessage (responseOf 2 2 false) = .response 31 2 5 2 none ∧
    parseMessage (responseOf 3 1 false) = .response 31 3 5 1 none ∧
    live.slot 31 = none ∧
    (live.setSlot 31 (some (slotOf .awaiting .fill 3 false))).slot 31 = some (slotOf .awaiting .fill 3 false) ∧
    (slotOf .backoff .fill 3 false).state ≠ .awaiting ∧ (slotOf .awaiting .fill 3 true).orphan = true ∧
    (slotOf .awaiting .fill 2 false).attempt < 3 ∧ 3 ≤ (slotOf .awaiting .fill 3 false).attempt ∧
    live.isFenced 5 = false ∧ (fenced none).isFenced 4095 = true ∧
    ((withLine (.filling 5 .media) 0 0 []).line line0).state = .filling 5 .media ∧
    ((withLine (.cleaning 5 .zero) 0 0 []).line line0).state = .cleaning 5 .zero ∧
    ((withLine (.redirty 5 .zero .one) 0 0 []).line line0).state = .redirty 5 .zero .one :=
  ⟨parsed (by decide +kernel), by decide +kernel⟩

/-- Slots, and the lines of their retries and failures: with an exclusive hold and without, REDIRTY, FILLING with a READ ahead of a WRITE in
its queue, in a fenced set. -/
theorem witness_SlotTimersExpire :
    (live.setSlot 31 (some (slotOf .awaiting .clean 2 false))).slot 31 = some (slotOf .awaiting .clean 2 false) ∧
    (slotOf .awaiting .clean 2 true).orphan = true ∧ (slotOf .awaiting .clean 2 false).attempt < 3 ∧
    3 ≤ (slotOf .awaiting .clean 3 false).attempt ∧ (slotOf .backoff .fill 0 false).state = .backoff ∧
    (live.setLine line0 { Line.reset with state := .cleaning 5 .zero, exclusive := true }).line line0 =
      { Line.reset with state := .cleaning 5 .zero, exclusive := true } ∧
    ((withLine (.redirty 5 .zero .one) 0 0 []).line line0).exclusive = false ∧
    ((withLine (.redirty 5 .zero .one) 0 0 []).line line0).state.epoch = some .zero ∧
    ((withLine (.filling 5 .media) 0 0 [bopOf .read 5, bopOf .write 5]).line line0).accessQueue =
      [bopOf .read 5] ++ [bopOf .write 5] ∧ (∀ b ∈ [bopOf .read 5], b.kind ≠ .write) ∧
    (live.setFence 5 { FenceRecord.reset with failedWay := some 7 }).isFenced 5 = true ∧ live.isFenced 5 = false := by
  decide +kernel

/-- Capacity 1; capacity 2^36; 2^36 + 1; 0. Then what a loss finds: an active flush-all, a slot that draws and one that is an orphan, a line of
the fill queue, a fenced set. -/
theorem witness_AnnounceAndLinkLoss :
    parseMessage (announceOf [1, 0, 0, 0, 0, 0, 0, 0]) = .announce 1 ∧
    parseMessage (announceOf [0, 0, 0, 0, 16, 0, 0, 0]) = .announce (2 ^ 36) ∧
    parseMessage (announceOf [1, 0, 0, 0, 16, 0, 0, 0]) = .announce (2 ^ 36 + 1) ∧
    parseMessage (announceOf [0, 0, 0, 0, 0, 0, 0, 0]) = .announce 0 ∧
    State.reset.media.link = .down ∧ live.media.link = .up ∧
    (queuedFlushAll [5]).writeBack.activeFlushAll = some { oldEpoch := .zero, failures := 0, worst := none } ∧
    (slotOf .drawing .clean 0 false).state = .drawing ∧ (slotOf .awaiting .fill 0 true).orphan = true ∧ live.slot 31 = none ∧
    line0 ∈ ({ live with media := { live.media with fillQueue := [line0] } } : State).media.fillQueue ∧
    line0 ∉ live.media.fillQueue ∧ (fenced none).isFenced 4095 = true ∧ live.isFenced 5 = false := by decide +kernel

/-- A visit of the last set and of the first; a set that is fenced, one with good codes, and one with a bad code; the walk's epoch is not the
current one. -/
theorem witness_RetagWalkVisitsASet :
    ({ live with writeBack := { live.writeBack with walk := some ⟨4095, .one⟩ } } : State).writeBack.walk = some ⟨4095, .one⟩ ∧
    ({ live with writeBack := { live.writeBack with walk := some ⟨0, .one⟩ } } : State).writeBack.walk = some ⟨0, .one⟩ ∧
    (0 : SetId) ≠ 4095 ∧ (fenced none).isFenced 4095 = true ∧ (live.cacheSet 0).badWay = none ∧
    Epoch.one ≠ live.writeBack.currentEpoch ∧ live.isFenced 5 = false ∧
    (((withLine (.clean 5) 0 0 []).spoilCode line0).cacheSet 5).badWay = some 0 := by decide +kernel

/-- Context 5 waits for the write of the record of this admin command. -/
def writing (op : Nat) (n : Option Notice) : Command := { arrivedCommand 0 true (bufferRecord op) with notice := n }

theorem witness_RecordWritesEnd :
    (∀ op ∈ [0x47, 0x49], (live.setCtx 5 (.holding (writing op none))).command 5 = some (writing op none) ∧
      (writing op none).state = .executing) ∧
    commandOf 0 (bufferRecord 0x49) = some .readSet ∧ commandOf 0 (bufferRecord 0x47) = some .reportGeometry ∧
    commandOf 0 (bufferRecord 0x48) = some .awaitNotice ∧
    (writing 0x48 (some ⟨4, 1, none⟩)).notice = some ⟨4, 1, none⟩ := by decide +kernel

end Sys2Proof.Tests
end

section
/-! PROOFS. SET CLEANER (R57): the marks are checked at intake, and the pressure flag is judged against the dirty count as it stands. -/

namespace Sys2Proof.Machine

/-! ### Intake: the two ways an arrival goes -/

/-- Check 2 of R107 is the first to run on a record that holds the command. -/
theorem State.intakeStatus_of_fieldsInvalid {k : CommandKind} {r : Record} (h : fieldsValid k r = false) (s : State)
    (c : CtxId) (sr : RingId) : s.intakeStatus k c sr r = .invalidField :=
  if_pos h

theorem State.arrive_of_fieldsInvalid {s : State} {k : CommandKind} {a : Arrival}
    (dispatch : State → CtxId → Record → State) (finish : State → State) (h : s.arrival = some a)
    (hc : commandOf a.sr a.record = some k) (hv : fieldsValid k a.record = false) :
    s.arrive k dispatch finish = ((s.takeArrival a).finish a.ctx .invalidField 0).settleHost := by
  have hst : s.intakeStatus k a.ctx a.sr a.record = .invalidField := State.intakeStatus_of_fieldsInvalid hv s _ _
  rw [State.arrive_eq dispatch finish h hc, hst, if_neg (by decide)]

theorem State.Accepts.arrive_eq {s : State} {k : CommandKind} {a : Arrival} (h : s.Accepts k a)
    (dispatch : State → CtxId → Record → State) (finish : State → State) :
    s.arrive k dispatch finish = finish (dispatch (s.takeArrival a) a.ctx a.record) := by
  obtain ⟨harrival, hcommand, hstatus⟩ := h
  rw [State.arrive_eq dispatch finish harrival hcommand, if_pos hstatus]

@[simp] theorem State.takeArrival_dirtyCount (s : State) (a : Arrival) : (s.takeArrival a).dirtyCount = s.dirtyCount := rfl

/-! ### SET CLEANER -/

theorem exec_setCleaner (s : State) :
    exec .setCleaner s = .next (s.arrive .setCleaner dispatchSetCleaner State.settle) := by
  rfl

/-- The marks that pass check 2 are legal (R57, R108). -/
theorem marks_legal_of_fieldsValid {r : Record} (h : fieldsValid .setCleaner r = true) :
    Rec.lowMark r < Rec.highMark r ∧ Rec.highMark r ≤ 32768 := by
  simp only [fieldsValid, Bool.and_eq_true, decide_eq_true_eq] at h
  obtain ⟨⟨⟨_, hlow⟩, hhigh⟩, _⟩ := h
  exact ⟨hlow, hhigh⟩

/-- The flag is judged with the new marks; where the count lies between them it stays as it was. -/
theorem dispatchSetCleaner_eq (s : State) (c : CtxId) (r : Record) :
    dispatchSetCleaner s c r = State.finish { s with
      writeBack := { s.writeBack with
        highMark := Rec.highMark r, lowMark := Rec.lowMark r,
        pressure :=
          if Rec.highMark r ≤ s.dirtyCount then true
          else if s.dirtyCount ≤ Rec.lowMark r then false
          else s.writeBack.pressure } } c .ok 0 :=
  rfl

/-- Settles O30: illegal marks fail check 2 of intake, and legal ones are dispatched on a state whose dirty count and flag the taking
of the arrival left as they were. -/
theorem cleanerMarksAreSet : Obligations.CleanerMarksAreSet := by
  unfold Obligations.CleanerMarksAreSet
  constructor
  · intro s a harrival hcommand hmarks
    have hinvalid : fieldsValid .setCleaner a.record = false :=
      Bool.eq_false_iff.mpr fun hvalid => hmarks (marks_legal_of_fieldsValid hvalid)
    rw [exec_setCleaner, State.arrive_of_fieldsInvalid _ _ harrival hcommand hinvalid]
  · intro s a haccepts
    rw [exec_setCleaner, haccepts.arrive_eq, dispatchSetCleaner_eq, State.takeArrival_dirtyCount,
      State.takeArrival_writeBack]

end Sys2Proof.Machine
end

section
/-! PROOFS. CREATE SUBMISSION RING (R127): the ring is made only if its number is free and its completion ring is ACTIVE. -/

namespace Sys2Proof.Machine

theorem exec_createSubmissionRing (s : State) :
    exec .createSubmissionRing s = .next (s.arrive .createSr dispatchCreateSubmissionRing State.settleHost) := by
  rfl

theorem State.crActive_eq_false_iff {s : State} {m : RingId} :
    s.crActive m = false ↔ ∀ r, s.cr m = some r → r.state ≠ .active := by
  unfold State.crActive
  split
  next r hr => simp [hr]
  next hr => simp [hr]

section
variable {s : State} {c : CtxId} {r : Record}

theorem dispatchCreateSubmissionRing_of_conflict
    (h : Rec.ringId (Rec.targetRing r) = 0 ∨ s.sr (Rec.ringId (Rec.targetRing r)) ≠ none ∨
      s.crActive (Rec.ringId (Rec.boundCr r)) = false) :
    dispatchCreateSubmissionRing s c r = s.finish c .stateConflict 0 := by
  simp only [← Option.isSome_iff_ne_none] at h
  exact if_pos h

theorem dispatchCreateSubmissionRing_of_free (hzero : Rec.ringId (Rec.targetRing r) ≠ 0)
    (hfree : s.sr (Rec.ringId (Rec.targetRing r)) = none) (hactive : s.crActive (Rec.ringId (Rec.boundCr r)) = true) :
    dispatchCreateSubmissionRing s c r =
      (s.setSr (Rec.ringId (Rec.targetRing r)) (some (createdSr r))).finish c .ok 0 :=
  if_neg (by simp [hzero, hfree, hactive])

end

/-- Settles O25: the taking of the arrival moves no ring, so the dispatch decides on the rings as they stood. -/
theorem submissionRingIsCreated : Obligations.SubmissionRingIsCreated := by
  unfold Obligations.SubmissionRingIsCreated
  rintro s a n m haccepts rfl rfl
  rw [exec_createSubmissionRing, haccepts.arrive_eq]
  constructor
  · intro hconflict
    rw [← State.crActive_eq_false_iff] at hconflict
    rw [dispatchCreateSubmissionRing_of_conflict (s := s.takeArrival a) hconflict]
  · intro r hzero hfree hbound hstate
    have hactive : s.crActive (Rec.ringId (Rec.boundCr a.record)) = true := by
      simp [State.crActive, hbound, hstate]
    rw [dispatchCreateSubmissionRing_of_free (s := s.takeArrival a) hzero hfree hactive, createdSr]

end Sys2Proof.Machine
end

section
/-! PROOFS. Fetching: when a submission ring is eligible for a fetch (R104, R131, R132), and how a fetch ends (R135, R136, R138). -/

namespace Sys2Proof.Machine

/-! ### Eligibility -/

theorem State.freeContexts_eq_countP (s : State) :
    s.freeContexts = (List.finRange 128).countP fun c => s.ctx c == Context.free := by
  have hlist : s.commands.contexts.toList = (List.finRange 128).map s.ctx :=
    List.ext_getElem (by simp) fun i _ _ => by simp [State.ctx]
  rw [State.freeContexts, hlist, List.countP_map]
  rfl

/-- One FREE context serves ring 0; an I/O ring needs one beyond the 8 kept back (R104). -/
theorem State.contextAvailable_iff {s : State} {n : RingId} :
    s.contextAvailable n = true ↔
      (if n = 0 then 1 else 9) ≤ (List.finRange 128).countP fun c => s.ctx c == Context.free := by
  rw [State.contextAvailable, ← State.freeContexts_eq_countP]
  split <;> simp [Config.adminReserve, Nat.succ_le_iff]

theorem CompletionRing.hasCredit_iff {r : CompletionRing} :
    r.hasCredit = true ↔ (r.tail + r.entries - r.head) % r.entries + r.reserved + 1 ≤ r.entries - 1 := by
  rw [CompletionRing.hasCredit, CompletionRing.unconsumed, decide_eq_true_eq]
  omega

/-- Both rings exist, and each is as R132 asks. -/
theorem State.eligible_iff {s : State} {n : RingId} :
    s.eligible n = true ↔
      ∃ q r, s.sr n = some q ∧ s.cr q.boundCr = some r ∧ q.state = .active ∧ q.head ≠ q.tail ∧
        s.engine.state = .running ∧ s.contextAvailable n = true ∧ r.state = .active ∧ r.hasCredit = true := by
  unfold State.eligible
  split
  next q hq =>
    cases hr : s.cr q.boundCr with
    | none => simp [hq, hr]
    | some r => simp [hq, hr, and_assoc]
  next hq => simp [hq]

/-- Settles O44: availability and credit are counted as R104 and R131 count them. -/
theorem eligibilityForFetch : Obligations.EligibilityForFetch := by
  unfold Obligations.EligibilityForFetch
  intro s n
  rw [State.eligible_iff]
  simp only [State.contextAvailable_iff, CompletionRing.hasCredit_iff]
  constructor
  · rintro ⟨q, r, hq, hr, hactive, hrecords, hrunning, hfree, hbound, hcredit⟩
    exact ⟨q, r, hq, hactive, hrecords, hrunning, hfree, hr, hbound, hcredit⟩
  · rintro ⟨q, r, hq, hactive, hrecords, hrunning, hfree, hr, hbound, hcredit⟩
    exact ⟨q, r, hq, hr, hactive, hrecords, hrunning, hfree, hbound, hcredit⟩

/-! ### The ends of a fetch -/

theorem exec_fetchCompletes (record : Record) (s : State) :
    exec (.fetchCompletes record) s = .next (s.endFetch (some record)) := by
  rfl

theorem exec_fetchFails (s : State) : exec .fetchFails s = .next (s.endFetch none) := by
  rfl

/-- The state with an idle fetch engine. -/
def State.fetchIdle (s : State) : State := { s with rings := { s.rings with fetch := none } }

section
variable {s : State} {f : Fetch} {q : SubmissionRing} (hf : s.rings.fetch = some f) (hq : s.sr f.sr = some q)
include hf hq

theorem State.endFetch_of_draining {u : Nat} {d : CtxId} (hstate : q.state = .draining u d) (record : Option Record) :
    s.endFetch record = s.fetchIdle.discardFetch f q := by
  have hidle : ({ s with rings := { s.rings with fetch := none } } : State).sr f.sr = some q := hq
  simp only [State.endFetch, State.fetchIdle, hf, hidle, hstate]

variable (hstate : q.state = .active ∨ q.state = .faulted)
include hstate

theorem State.endFetch_of_data (record : Record) :
    s.endFetch (some record) = s.fetchIdle.acceptFetch f q record := by
  have hidle : ({ s with rings := { s.rings with fetch := none } } : State).sr f.sr = some q := hq
  rcases hstate with hstate | hstate <;> simp only [State.endFetch, State.fetchIdle, hf, hidle, hstate]

theorem State.endFetch_of_refusal : s.endFetch none = s.fetchIdle.failFetch f q := by
  have hidle : ({ s with rings := { s.rings with fetch := none } } : State).sr f.sr = some q := hq
  rcases hstate with hstate | hstate <;> simp only [State.endFetch, State.fetchIdle, hf, hidle, hstate]

end

/-- Putting back what a completion ring is changes nothing. -/
theorem State.setCr_of_cr {s : State} {n : RingId} {x : Option CompletionRing} (h : s.cr n = x) : s.setCr n x = s := by
  have hset : s.rings.crs.set n x = s.rings.crs := by
    rw [← h]
    exact Vector.set_getElem_self n.isLt
  rw [State.setCr, hset]

/-- Only an ACTIVE ring takes the reservation (R135 step 2). -/
theorem State.reserve_eq {s : State} {n : RingId} {r : CompletionRing} (h : s.cr n = some r) :
    s.reserve n =
      (s.setCr n (some { r with reserved := if r.state = .active then r.reserved + 1 else r.reserved }),
        r.state == .active) := by
  rw [State.reserve, h]
  by_cases hactive : r.state = .active
  · simp [hactive]
  · have hsame : s.setCr n (some { r with reserved := r.reserved }) = s := State.setCr_of_cr h
    simp [hactive, hsame]

/-- What the acceptance of a record makes of the rings, its context and the intake queue, before the arbiter runs. -/
theorem State.acceptFetch_eq {s : State} {f : Fetch} {q : SubmissionRing} {r : CompletionRing}
    (hr : s.cr q.boundCr = some r) (record : Record) :
    s.acceptFetch f q record = State.fetchArbiter (State.setCtx
      (State.setCr
        (State.setSr { s with rings := { s.rings with
            intake := s.rings.intake ++ [{ ctx := f.ctx, record := record }] } } f.sr
          (some { q with head := if q.head + 1 < q.entries then q.head + 1 else 0, fetchInFlight := false }))
        q.boundCr (some { r with reserved := if r.state = .active then r.reserved + 1 else r.reserved }))
      f.ctx (.fetching f.sr (r.state == .active))) := by
  have hreserve := State.reserve_eq
    (s := s.setSr f.sr (some { q with head := q.nextHead, fetchInFlight := false })) (n := q.boundCr) hr
  simp only [State.acceptFetch, hreserve]
  rfl

/-- Settles O43: the ring's state picks one of the three ends. -/
theorem fetchEnds : Obligations.FetchEnds := by
  unfold Obligations.FetchEnds
  intro s f q record hf hq
  rw [exec_fetchCompletes, exec_fetchFails]
  constructor
  · intro hstate
    constructor
    · intro r hr
      rw [State.endFetch_of_data hf hq hstate, State.acceptFetch_eq (s := s.fetchIdle) hr]
      rfl
    · rw [State.endFetch_of_refusal hf hq hstate]
      rfl
  · intro u d hstate
    rw [State.endFetch_of_draining hf hq hstate, State.endFetch_of_draining hf hq hstate]
    exact ⟨rfl, rfl⟩

end Sys2Proof.Machine
end

section
/-! PROOFS. Ring faults (R143, R144, R178) and the head write that causes one (R130). Posting and dropping move a context only from
holding a command to FREE, and of a FAULTED completion ring without a post queue they only lower the reserved count. -/

namespace Sys2Proof.Machine

/-! ### What posting and dropping make of a context and of a faulted ring -/

/-- What posting and dropping may make of a context: it stays, it is freed, or it holds its command in another state. -/
def Context.MayBecome (x y : Context) : Prop := y = x ∨ y = .free ∨ ∃ m m', x = .holding m ∧ y = .holding m'

theorem Context.MayBecome.trans {x y z : Context} (h : x.MayBecome y) (g : y.MayBecome z) : x.MayBecome z := by
  rcases g with rfl | rfl | ⟨m, m', rfl, rfl⟩
  · exact h
  · exact .inr (.inl rfl)
  · rcases h with rfl | h | ⟨k, k', rfl, _⟩
    · exact .inr (.inr ⟨m, m', rfl, rfl⟩)
    · cases h
    · exact .inr (.inr ⟨k, m', rfl, rfl⟩)

theorem Context.MayBecome.of_free {y : Context} (h : Context.free.MayBecome y) : y = .free := by
  rcases h with rfl | rfl | ⟨m, m', h, _⟩
  · rfl
  · rfl
  · cases h

theorem Context.MayBecome.of_holding {m : Command} {y : Context} (h : (Context.holding m).MayBecome y) :
    y = .free ∨ ∃ m', y = .holding m' := by
  rcases h with rfl | rfl | ⟨k, k', _, rfl⟩
  · exact .inr ⟨m, rfl⟩
  · exact .inl rfl
  · exact .inr ⟨k', rfl⟩

/-- From `s` to `t` contexts end or go on, and a FAULTED completion ring with an empty post queue only gives up reservations. -/
structure State.OnlyPosts (s t : State) : Prop where
  ctx : ∀ d, (s.ctx d).MayBecome (t.ctx d)
  faultedCr : ∀ n x, s.cr n = some x → x.state = .faulted → x.postQueue = [] →
    ∃ k, k ≤ x.reserved ∧ t.cr n = some { x with reserved := k }

namespace State.OnlyPosts

variable {s t u : State}

theorem refl (s : State) : s.OnlyPosts s := ⟨fun _ => .inl rfl, fun _ x hx _ _ => ⟨x.reserved, le_refl _, hx⟩⟩

theorem trans (h : s.OnlyPosts t) (g : t.OnlyPosts u) : s.OnlyPosts u := by
  refine ⟨fun d => (h.ctx d).trans (g.ctx d), fun n x hx hstate hqueue => ?_⟩
  obtain ⟨k, hk, ht⟩ := h.faultedCr n x hx hstate hqueue
  obtain ⟨j, hj, hu⟩ := g.faultedCr n _ ht hstate hqueue
  exact ⟨j, le_trans hj hk, hu⟩

theorem ctx_free (h : s.OnlyPosts t) {d : CtxId} (hd : s.ctx d = .free) : t.ctx d = .free := by
  have hmove := h.ctx d
  rw [hd] at hmove
  exact hmove.of_free

theorem command_or_free (h : s.OnlyPosts t) {d : CtxId} (hd : (s.command d).isSome = true) :
    t.ctx d = .free ∨ (t.command d).isSome = true := by
  obtain ⟨m, hm⟩ := Option.isSome_iff_exists.mp hd
  have hmove := h.ctx d
  rw [command_eq_some.mp hm] at hmove
  rcases hmove.of_holding with hfree | ⟨m', hm'⟩
  · exact .inl hfree
  · exact .inr (Option.isSome_iff_exists.mpr ⟨m', command_eq_some.mpr hm'⟩)

/-- Steps that touch neither a context nor a completion ring. -/
theorem of_eq (hctx : ∀ d, t.ctx d = s.ctx d) (hcr : ∀ n, t.cr n = s.cr n) : s.OnlyPosts t :=
  ⟨fun d => .inl (hctx d), fun n x hx _ _ => ⟨x.reserved, le_refl _, (hcr n).trans hx⟩⟩

theorem setSr (s : State) (n : RingId) (x : Option SubmissionRing) : s.OnlyPosts (s.setSr n x) :=
  of_eq (fun _ => rfl) fun _ => rfl

theorem setCtx {c : CtxId} {y : Context} (h : (s.ctx c).MayBecome y) : s.OnlyPosts (s.setCtx c y) := by
  refine ⟨fun d => ?_, fun _ x hx _ _ => ⟨x.reserved, le_refl _, hx⟩⟩
  by_cases hd : c = d
  · rw [← hd, ctx_setCtx_self]
    exact h
  · rw [ctx_setCtx_ne _ _ _ _ hd]
    exact .inl rfl

theorem free (s : State) (c : CtxId) : s.OnlyPosts (s.setCtx c .free) := setCtx (.inr (.inl rfl))

theorem hold {c : CtxId} {m : Command} (h : s.command c = some m) (m' : Command) :
    s.OnlyPosts (s.setCtx c (.holding m')) :=
  setCtx (.inr (.inr ⟨m, m', command_eq_some.mp h, rfl⟩))

theorem unreserve (s : State) (n : RingId) : s.OnlyPosts (s.unreserve n) := by
  unfold State.unreserve
  split
  next r hr =>
    refine ⟨fun _ => .inl rfl, fun m x hx _ _ => ?_⟩
    by_cases hm : n = m
    · subst hm
      obtain rfl : r = x := Option.some.inj (hr.symm.trans hx)
      exact ⟨r.reserved - 1, Nat.sub_le _ _, cr_setCr_self ..⟩
    · exact ⟨x.reserved, le_refl _, (cr_setCr_ne _ _ _ _ hm).trans hx⟩
  next => exact refl s

/-- A ring that is ACTIVE, or has a post queue, is none that the relation speaks of. -/
theorem setCr {n : RingId} {r : CompletionRing} (hr : s.cr n = some r) (hbusy : r.state = .active ∨ r.postQueue ≠ [])
    (x : Option CompletionRing) : s.OnlyPosts (s.setCr n x) := by
  refine ⟨fun _ => .inl rfl, fun m y hy hstate hqueue => ?_⟩
  by_cases hm : n = m
  · subst hm
    obtain rfl : r = y := Option.some.inj (hr.symm.trans hy)
    rcases hbusy with hactive | hposts
    · rw [hactive] at hstate
      cases hstate
    · exact absurd hqueue hposts
  · exact ⟨y.reserved, le_refl _, (cr_setCr_ne _ _ _ _ hm).trans hy⟩

theorem issueRecord (s : State) (n : RingId) : s.OnlyPosts (s.issueRecord n) := by
  unfold State.issueRecord
  split
  next r hr =>
    split
    next c rest _ hqueue =>
      have hposts : r.postQueue ≠ [] := by simp [hqueue]
      split
      next => exact (setCr hr (.inr hposts) _).trans (of_eq (fun _ => rfl) fun _ => rfl)
      next => exact setCr hr (.inr hposts) _
    next => exact refl s
    next => exact refl s
  next => exact refl s

theorem dropCompletion (s : State) (c : CtxId) (reserved : Bool) (n : RingId) :
    s.OnlyPosts (s.dropCompletion c reserved n) := by
  unfold State.dropCompletion
  dsimp only
  split
  · exact (free s c).trans (unreserve _ n)
  · exact free s c

theorem joinPost (s : State) (c : CtxId) : s.OnlyPosts (s.joinPost c) := by
  unfold State.joinPost
  split
  next cmd hcmd =>
    split
    next q _ =>
      split
      next r hr =>
        split
        next hactive => exact ((hold hcmd _).trans (setCr (s := s.setCtx c _) hr (.inl hactive) _)).trans (issueRecord _ _)
        next => exact dropCompletion s c _ _
      next => exact free s c
    next => exact free s c
  next => exact refl s

theorem setOutcome (s : State) (c : CtxId) (st : Status) (v : Nat) : s.OnlyPosts (s.setOutcome c st v) := by
  unfold State.setOutcome
  split
  next hcmd => exact hold hcmd _
  next => exact refl s

theorem judgeDelete (s : State) (n : RingId) : s.OnlyPosts (s.judgeDelete n) := by
  unfold State.judgeDelete
  split
  · split
    · split
      · exact refl s
      · exact ((setSr s n none).trans (setOutcome _ _ _ _)).trans (joinPost _ _)
    · exact refl s
    · exact refl s
  · exact refl s

theorem dropAll (n : RingId) (cs : List CtxId) (s : State) : s.OnlyPosts (dropAll n cs s) := by
  induction cs generalizing s with
  | nil => exact refl s
  | cons c cs ih =>
    unfold Machine.dropAll
    split
    · exact ((dropCompletion s c _ n).trans (judgeDelete _ _)).trans (ih _)
    · exact ih s

end State.OnlyPosts

/-! ### Dropping a post queue -/

/-- R143 for the head of the queue. -/
theorem dropAll_cons_of_command {s : State} {c : CtxId} {cmd : Command} (h : s.command c = some cmd) (n : RingId)
    (cs : List CtxId) :
    dropAll n (c :: cs) s = dropAll n cs ((s.dropCompletion c cmd.reserved n).judgeDelete cmd.sr) := by
  rw [dropAll, h]

theorem dropAll_cons_of_no_command {s : State} {c : CtxId} (h : s.command c = none) (n : RingId) (cs : List CtxId) :
    dropAll n (c :: cs) s = dropAll n cs s := by
  rw [dropAll, h]

theorem State.dropCompletion_eq {s : State} {n : RingId} {x : CompletionRing} (h : s.cr n = some x) (c : CtxId)
    (reserved : Bool) :
    s.dropCompletion c reserved n =
      if reserved then (s.setCtx c .free).setCr n (some { x with reserved := x.reserved - 1 })
      else s.setCtx c .free := by
  have hcr : (s.setCtx c .free).cr n = some x := h
  simp only [State.dropCompletion, State.unreserve, hcr]

theorem State.dropCompletion_ctx_self (s : State) (c : CtxId) (reserved : Bool) (n : RingId) :
    (s.dropCompletion c reserved n).ctx c = .free := by
  have hfree : (s.setCtx c .free).ctx c = .free := State.ctx_setCtx_self ..
  unfold State.dropCompletion
  dsimp only
  split
  · exact (State.OnlyPosts.unreserve _ n).ctx_free hfree
  · exact hfree

/-- Every context of the queue that holds a command when the dropping begins is FREE when it ends: one that a delete meanwhile
moves on still holds a command when its turn comes, and one that is FREE stays so. -/
theorem dropAll_frees (n : RingId) {cs : List CtxId} {s : State} {c : CtxId} (hc : c ∈ cs)
    (hcmd : (s.command c).isSome = true) : (dropAll n cs s).ctx c = .free := by
  induction cs generalizing s with
  | nil => cases hc
  | cons d cs ih =>
    cases hd : s.command d with
    | none =>
      rw [dropAll_cons_of_no_command hd]
      rcases List.mem_cons.mp hc with rfl | hc
      · simp [hd] at hcmd
      · exact ih hc hcmd
    | some m =>
      rw [dropAll_cons_of_command hd]
      rcases List.mem_cons.mp hc with rfl | hc
      · have hfree := (State.OnlyPosts.judgeDelete _ m.sr).ctx_free (s.dropCompletion_ctx_self c m.reserved n)
        exact (State.OnlyPosts.dropAll n cs _).ctx_free hfree
      · have hstep := (State.OnlyPosts.dropCompletion s d m.reserved n).trans (State.OnlyPosts.judgeDelete _ m.sr)
        rcases hstep.command_or_free hcmd with hfree | hcmd
        · exact (State.OnlyPosts.dropAll n cs _).ctx_free hfree
        · exact ih hc hcmd

theorem State.SameCore.dropAll (n : RingId) (cs : List CtxId) (s : State) : s.SameCore (dropAll n cs s) := by
  induction cs generalizing s with
  | nil => exact refl s
  | cons c cs ih =>
    unfold Machine.dropAll
    split
    · exact ((dropCompletion s c _ n).trans (judgeDelete _ _)).trans (ih _)
    · exact ih s

/-! ### A fault is reported, and claims the engine if it is of ring 0 -/

/-- What a fault of ring `n` makes of Engine Control: ring 0 halts an engine that is enabled and not HALTED (R144, R178). -/
def EngineControl.afterFault (e : EngineControl) (n : RingId) : EngineControl :=
  if n = 0 ∧ e.state ≠ .disabled ∧ e.state ≠ .halted then
    { e with state := .halted, quiesceAtHalt := e.state != .running }
  else e

theorem State.claim_eq (s : State) (n : RingId) : s.claim n = { s with engine := s.engine.afterFault n } := by
  unfold State.claim State.halt EngineControl.afterFault
  by_cases hn : n = 0
  · cases hstate : s.engine.state <;> simp [hn, hstate, EngineControl.quiesceRead]
  · simp [hn]

/-- The capture table alone decides what a report makes of it. -/
theorem State.reportFault_faults_congr {s t : State} (h : t.faults = s.faults) (x : FaultRecord) :
    (t.reportFault x).faults = (s.reportFault x).faults := by
  simp only [State.reportFault, State.setEntry, h]

/-- The end of a ring fault, after whatever the fault did to contexts and rings. -/
theorem State.SameCore.reportFault_claim {s t : State} (h : s.SameCore t) (x : FaultRecord) (n : RingId) :
    ((t.reportFault x).claim n).faults = (s.reportFault x).faults ∧ s.SameCache ((t.reportFault x).claim n) ∧
      ((t.reportFault x).claim n).engine = s.engine.afterFault n := by
  rw [State.claim_eq]
  refine ⟨State.reportFault_faults_congr h.faults x, ⟨h.directory, h.writeBack, h.media, h.frames⟩, ?_⟩
  exact congrArg (·.afterFault n) h.engine

theorem State.reportFault_claim_rings (s : State) (x : FaultRecord) (n : RingId) :
    ((s.reportFault x).claim n).rings = s.rings := by
  rw [State.claim_eq]
  rfl

theorem State.reportFault_claim_commands (s : State) (x : FaultRecord) (n : RingId) :
    ((s.reportFault x).claim n).commands = s.commands := by
  rw [State.claim_eq]
  rfl

/-! ### The fault of a completion ring -/

/-- A completion ring at its fault, before its post queue is dropped (R144). -/
def CompletionRing.faultedRing (r : CompletionRing) : CompletionRing :=
  { r with state := .faulted, postQueue := [], unsignalled := 0, timer := none }

section
variable {s : State} {n : RingId} {r : CompletionRing} (h : s.cr n = some r) (reason : RingFaultReason)
include h

theorem State.faultCr_eq :
    s.faultCr n reason =
      ((dropAll n r.postQueue (s.setCr n (some r.faultedRing))).reportFault (.ring .cr n reason)).claim n := by
  rw [State.faultCr, h]
  rfl

theorem State.faultCr_cr :
    ∃ k, k ≤ r.reserved ∧ (s.faultCr n reason).cr n = some { r.faultedRing with reserved := k } := by
  have hdrop := State.OnlyPosts.dropAll n r.postQueue (s.setCr n (some r.faultedRing))
  obtain ⟨k, hk, hring⟩ := hdrop.faultedCr n r.faultedRing (State.cr_setCr_self ..) rfl rfl
  refine ⟨k, hk, ?_⟩
  rw [State.faultCr_eq h, State.cr, State.reportFault_claim_rings]
  exact hring

theorem State.faultCr_frees {c : CtxId} (hc : c ∈ r.postQueue) (hcmd : (s.command c).isSome = true) :
    (s.faultCr n reason).ctx c = .free := by
  rw [State.faultCr_eq h, State.ctx, State.reportFault_claim_commands]
  exact dropAll_frees (s := s.setCr n (some r.faultedRing)) n hc hcmd

theorem State.faultCr_rest :
    (s.faultCr n reason).faults = (s.reportFault (.ring .cr n reason)).faults ∧ s.SameCache (s.faultCr n reason) ∧
      (s.faultCr n reason).engine = s.engine.afterFault n := by
  rw [State.faultCr_eq h]
  exact ((State.SameCore.setCr s n _).trans (State.SameCore.dropAll n _ _)).reportFault_claim _ n

end

/-! ### The fault of a submission ring -/

/-- Putting back what a submission ring is changes nothing. -/
theorem State.setSr_of_sr {s : State} {n : RingId} {x : Option SubmissionRing} (h : s.sr n = x) : s.setSr n x = s := by
  have hset : s.rings.srs.set n x = s.rings.srs := by
    rw [← h]
    exact Vector.set_getElem_self n.isLt
  rw [State.setSr, hset]

/-- A submission ring after its fault: only an ACTIVE one becomes FAULTED (R144). -/
def SubmissionRing.faultedRing (q : SubmissionRing) : SubmissionRing :=
  { q with state := if q.state = .active then .faulted else q.state }

theorem State.faultSr_eq {s : State} {n : RingId} {q : SubmissionRing} (h : s.sr n = some q)
    (reason : RingFaultReason) :
    s.faultSr n reason = ((s.setSr n (some q.faultedRing)).reportFault (.ring .sr n reason)).claim n := by
  simp only [State.faultSr, h]
  by_cases hactive : q.state = .active
  · rw [if_pos hactive, SubmissionRing.faultedRing, if_pos hactive]
  · rw [if_neg hactive, SubmissionRing.faultedRing, if_neg hactive, State.setSr_of_sr h]

section
variable {s : State} {n : RingId} {q : SubmissionRing} (h : s.sr n = some q) (reason : RingFaultReason)
include h

theorem State.faultSr_sr (m : RingId) : (s.faultSr n reason).sr m = (s.setSr n (some q.faultedRing)).sr m := by
  rw [State.faultSr_eq h, State.sr, State.reportFault_claim_rings]
  rfl

theorem State.faultSr_crs : (s.faultSr n reason).rings.crs = s.rings.crs := by
  rw [State.faultSr_eq h, State.reportFault_claim_rings]
  rfl

theorem State.faultSr_commands : (s.faultSr n reason).commands = s.commands := by
  rw [State.faultSr_eq h, State.reportFault_claim_commands]
  rfl

theorem State.faultSr_rest :
    (s.faultSr n reason).faults = (s.reportFault (.ring .sr n reason)).faults ∧ s.SameCache (s.faultSr n reason) ∧
      (s.faultSr n reason).engine = s.engine.afterFault n := by
  rw [State.faultSr_eq h]
  exact (State.SameCore.setSr s n _).reportFault_claim _ n

end

/-! ### The head register -/

theorem exec_crHeadWrite {s : State} (h : s.host.linkUsable = true) (n : RingId) (v : BitVec 32) :
    exec (.crHeadWrite n v) s = .next (s.writeCrHead n v.toNat) := by
  have hexec : exec (.crHeadWrite n v) s = .next (s.ifUsable (s.writeCrHead n v.toNat)) := rfl
  rw [hexec, State.ifUsable, if_pos h]

/-- Register `n` of the window from 0x180 on is the head of completion ring `n` (Table 9.13). -/
theorem State.readRegister_crHead (s : State) (n : RingId) :
    s.readRegister (0x180 + 4 * n.val) 4 = s.crHeadWord n := by
  have hn : n.val < 16 := n.isLt
  have hring : Fin.ofNat 16 ((0x180 + 4 * n.val - 0x180) / 4) = n := by
    apply Fin.ext
    simp only [Fin.ofNat]
    omega
  rw [State.readRegister, if_pos (by omega), State.readWord]
  repeat rw [if_neg (by omega)]
  rw [if_pos (by omega), hring]

theorem CompletionRing.inSpan_iff {r : CompletionRing} {v : Nat} :
    r.inSpan v = true ↔
      v < r.entries ∧ (v + r.entries - r.head) % r.entries ≤ (r.tail + r.entries - r.head) % r.entries := by
  rw [CompletionRing.inSpan, CompletionRing.unconsumed, Bool.and_eq_true, decide_eq_true_eq, decide_eq_true_eq]

section
variable {s : State} {n : RingId} {v : Nat}

theorem State.writeCrHead_of_unused (h : s.cr n = none) : s.writeCrHead n v = s := by
  simp only [State.writeCrHead, h]

variable {r : CompletionRing} (h : s.cr n = some r)
include h

theorem State.writeCrHead_of_faulted (hstate : r.state = .faulted) : s.writeCrHead n v = s := by
  simp only [State.writeCrHead, h, hstate]

theorem State.writeCrHead_of_active (hstate : r.state = .active) :
    s.writeCrHead n v =
      if r.inSpan v then (s.setCr n (some { r with head := v })).fetchArbiter
      else (s.faultCr n .badIndex).settleHost := by
  simp only [State.writeCrHead, h, hstate]

end

/-- The first clause of O40: the write and the read of the register, by the ring's state. -/
theorem headWrite_acts {s : State} (husable : s.host.linkUsable = true) (n : RingId) (v : BitVec 32) :
    (s.cr n = none → exec (.crHeadWrite n v) s = .next s ∧ s.readRegister (0x180 + 4 * n.val) 4 = 0) ∧
    (∀ r, s.cr n = some r →
      s.readRegister (0x180 + 4 * n.val) 4 = r.head ∧
      (r.state = .faulted → exec (.crHeadWrite n v) s = .next s) ∧
      (r.state = .active →
        (r.inSpan v.toNat = true →
          exec (.crHeadWrite n v) s = .next (s.setCr n (some { r with head := v.toNat })).fetchArbiter) ∧
        (¬r.inSpan v.toNat = true →
          exec (.crHeadWrite n v) s = .next (s.faultCr n .badIndex).settleHost))) := by
  rw [exec_crHeadWrite husable, State.readRegister_crHead]
  constructor
  · intro hunused
    rw [State.writeCrHead_of_unused hunused, State.crHeadWord, hunused]
    exact ⟨rfl, rfl⟩
  · intro r hr
    refine ⟨by rw [State.crHeadWord, hr], fun hfaulted => ?_, fun hactive => ⟨fun hspan => ?_, fun hspan => ?_⟩⟩
    · rw [State.writeCrHead_of_faulted hr hfaulted]
    · rw [State.writeCrHead_of_active hr hactive, if_pos hspan]
    · rw [State.writeCrHead_of_active hr hactive, if_neg hspan]

/-- Settles O40: the write is judged by the ring's state; the dropping of a post queue only posts (`State.OnlyPosts`), so that the
ring keeps all but its reservations; the report and the claim touch the capture table and the engine alone. -/
theorem headWriteActsByState : Obligations.HeadWriteActsByState := by
  unfold Obligations.HeadWriteActsByState
  refine ⟨fun s n v husable => ?_, ?_, fun s n x c cs cmd hx hcmd => ?_, ?_⟩
  · simp only [← CompletionRing.inSpan_iff]
    exact headWrite_acts husable n v
  · rintro s _ n r reason hr rfl
    obtain ⟨hfaults, hcache, hengine⟩ := State.faultCr_rest hr reason
    exact ⟨State.faultCr_eq hr reason, State.faultCr_cr hr reason, fun c hc => State.faultCr_frees hr reason hc,
      hfaults, hcache, hengine⟩
  · refine ⟨rfl, ?_⟩
    rw [dropAll_cons_of_command hcmd, State.dropCompletion_eq hx]
  · rintro s _ n q reason hq rfl
    obtain ⟨hfaults, hcache, hengine⟩ := State.faultSr_rest hq reason
    refine ⟨?_, fun m hm => ?_, State.faultSr_crs hq reason, State.faultSr_commands hq reason, hfaults, hcache, hengine⟩
    · rw [State.faultSr_sr hq, State.sr_setSr_self]
      rfl
    · rw [State.faultSr_sr hq, State.sr_setSr_ne _ _ _ _ hm.symm]

end Sys2Proof.Machine
end

section
/-! PROOFS. The ends of the record writes (R118, R154, R164): each end acts for the command of the context, once that command is
EXECUTING and of the record's kind. -/

namespace Sys2Proof.Machine

theorem exec_snapshotWriteSucceeds (s : State) (c : CtxId) :
    exec (.snapshotWriteSucceeds c) s = .next (s.recordWritten c .readSet) := by
  rfl

theorem exec_snapshotWriteFails (s : State) (c : CtxId) :
    exec (.snapshotWriteFails c) s = .next (s.recordRefused c .readSet .snapshot) := by
  rfl

theorem exec_geometryWriteSucceeds (s : State) (c : CtxId) :
    exec (.geometryWriteSucceeds c) s = .next (s.recordWritten c .reportGeometry) := by
  rfl

theorem exec_geometryWriteFails (s : State) (c : CtxId) :
    exec (.geometryWriteFails c) s = .next (s.recordRefused c .reportGeometry .geometry) := by
  rfl

theorem exec_noticeWriteSucceeds (s : State) (c : CtxId) :
    exec (.noticeWriteSucceeds c) s = .next (s.noticeWritten c) := by
  rfl

theorem exec_noticeWriteFails (s : State) (c : CtxId) : exec (.noticeWriteFails c) s = .next (s.noticeRefused c) := by
  rfl

theorem State.executing_eq_some_iff {s : State} {c : CtxId} {k : CommandKind} {cmd : Command} :
    s.executing c k = some cmd ↔
      s.command c = some cmd ∧ cmd.state = .executing ∧ commandOf cmd.sr cmd.record = some k := by
  simp only [State.executing, Option.filter_eq_some_iff, Bool.and_eq_true, beq_iff_eq]

/-- R154: the merged entry holds the notice's own first record, and its count is limited to 65,535. -/
theorem State.mergeNotice_eq (s : State) (n : Notice) :
    s.mergeNotice n = s.setEntry n.faultClass
      { count := min (n.count + s.faults.entries[n.faultClass].count) 65535, first := n.first, unreported := true } := by
  rfl

section
variable {s : State} {c : CtxId} {k : CommandKind} {cmd : Command}

theorem State.recordWritten_of_executing (h : s.executing c k = some cmd) :
    s.recordWritten c k = (s.finish c .ok 0).settleHost := by
  simp only [State.recordWritten, h]

theorem State.recordRefused_of_executing (h : s.executing c k = some cmd) (t : HostTransferKind) :
    s.recordRefused c k t = ((s.reportFault (recordFault cmd t)).finish c .hostBusError 0).settleHost := by
  simp only [State.recordRefused, h]

variable {n : Notice}

theorem State.noticeInFlight_of_executing (h : s.executing c .awaitNotice = some cmd) (hn : cmd.notice = some n) :
    s.noticeInFlight c = some (cmd, n) := by
  simp only [State.noticeInFlight, h, hn]

theorem State.noticeWritten_of_inFlight (h : s.noticeInFlight c = some (cmd, n)) :
    s.noticeWritten c = (s.finish c .ok n.faultClass.val).settleHost := by
  simp only [State.noticeWritten, h]

theorem State.noticeRefused_of_inFlight (h : s.noticeInFlight c = some (cmd, n)) :
    s.noticeRefused c =
      (((s.mergeNotice n).reportFault (recordFault cmd .notice)).finish c .hostBusError n.faultClass.val).settleHost := by
  simp only [State.noticeRefused, h]

end

/-- Settles O60: the two records that carry no notice end alike, by their kind; a refused notice is merged back before its own fault is
reported, so that the report counts on the merged entry. -/
theorem recordWritesEnd : Obligations.RecordWritesEnd := by
  unfold Obligations.RecordWritesEnd
  intro s c cmd hcmd hstate
  have hexecuting {k : CommandKind} (hkind : commandOf cmd.sr cmd.record = some k) : s.executing c k = some cmd :=
    State.executing_eq_some_iff.mpr ⟨hcmd, hstate, hkind⟩
  refine ⟨fun hkind => ⟨?_, ?_⟩, fun hkind => ⟨?_, ?_⟩, fun n hkind hn => ?_⟩
  · rw [exec_snapshotWriteSucceeds, State.recordWritten_of_executing (hexecuting hkind)]
  · rw [exec_snapshotWriteFails, State.recordRefused_of_executing (hexecuting hkind), recordFault]
  · rw [exec_geometryWriteSucceeds, State.recordWritten_of_executing (hexecuting hkind)]
  · rw [exec_geometryWriteFails, State.recordRefused_of_executing (hexecuting hkind), recordFault]
  · have hflight : s.noticeInFlight c = some (cmd, n) := State.noticeInFlight_of_executing (hexecuting hkind) hn
    constructor
    · rw [exec_noticeWriteSucceeds, State.noticeWritten_of_inFlight hflight]
    · rw [exec_noticeWriteFails, State.noticeRefused_of_inFlight hflight, State.mergeNotice_eq, recordFault]

end Sys2Proof.Machine
end

section
/-! PROOFS. ENABLE (R126, R174) and the return to RUNNING (R177): a write of ENGINE CONTROL without SOFT_RESET stores FLUSH_ON_QUIESCE
and then acts by the engine state, which the storing does not move. -/

namespace Sys2Proof.Machine

theorem State.ifUsable_of_usable {s : State} (h : s.host.linkUsable = true) (t : State) : s.ifUsable t = t :=
  if_pos h

theorem exec_enable {s : State} (h : s.host.linkUsable = true) (q f : Bool) :
    exec (.enable q f) s =
      .next (s.writeControl { enable := true, quiesce := q, flushOnQuiesce := f, softReset := false }) :=
  congrArg Host.Outcome.next (State.ifUsable_of_usable h _)

theorem exec_quiesceCleared {s : State} (h : s.host.linkUsable = true) (e f : Bool) :
    exec (.quiesceCleared e f) s =
      .next (s.writeControl { enable := e, quiesce := false, flushOnQuiesce := f, softReset := false }) :=
  congrArg Host.Outcome.next (State.ifUsable_of_usable h _)

/-! ### The admin pair -/

/-- R174: the low half of the sizes register holds the entries of SR0, the rest those of CR0. -/
theorem State.adminRegistersValid_iff {s : State} {srEntries crEntries : Nat}
    (hsr : srEntries = s.host.adminRingSizes.toNat % 65536) (hcr : crEntries = s.host.adminRingSizes.toNat / 65536) :
    s.adminRegistersValid = true ↔
      8 ≤ srEntries ∧ srEntries ≤ 4096 ∧ 8 ≤ crEntries ∧ crEntries ≤ 4096 ∧
        s.host.adminSubmissionBase.toNat % 64 = 0 ∧ s.host.adminCompletionBase.toNat % 64 = 0 ∧
        s.host.adminSubmissionBase.toNat + 64 * srEntries ≤ 2 ^ 64 ∧
        s.host.adminCompletionBase.toNat + 16 * crEntries ≤ 2 ^ 64 := by
  have htop : Config.hostTop = 2 ^ 64 := rfl
  simp only [State.adminRegistersValid, ← hsr, ← hcr, htop, Bool.and_eq_true, decide_eq_true_eq, beq_iff_eq, and_assoc]

/-- R170: what a write of ENGINE CONTROL without SOFT_RESET does first. -/
def State.storeFlushOnQuiesce (s : State) (f : Bool) : State :=
  { s with engine := { s.engine with flushOnQuiesce := f } }

theorem State.adminRegistersValid_storeFlushOnQuiesce (s : State) (f : Bool) :
    (s.storeFlushOnQuiesce f).adminRegistersValid = s.adminRegistersValid :=
  rfl

section
variable {s : State}

theorem State.tryEnable_of_valid (h : s.adminRegistersValid = true) :
    s.tryEnable = State.fetchArbiter
      { s.createAdminPair with engine := { s.engine with state := .running, enableRefused := false } } :=
  if_pos h

theorem State.tryEnable_of_not_valid (h : ¬s.adminRegistersValid = true) :
    s.tryEnable = { s with engine := { s.engine with enableRefused := true } } :=
  if_neg h

/-! ### What a write of ENGINE CONTROL does by the engine state -/

variable {w : ControlWrite} (hsoft : w.softReset = false)
include hsoft

theorem State.writeControl_of_disabled (hstate : s.engine.state = .disabled) (henable : w.enable = true) :
    s.writeControl w = (s.storeFlushOnQuiesce w.flushOnQuiesce).tryEnable := by
  simp [State.writeControl, hsoft, hstate, henable, State.storeFlushOnQuiesce]

/-- QUIESCING and QUIESCED differ only in what QUIESCE 1 does. -/
theorem State.writeControl_of_quiesceCleared
    (hstate : s.engine.state = .quiescing ∨ s.engine.state = .quiesced) (hquiesce : w.quiesce = false) :
    s.writeControl w = (s.storeFlushOnQuiesce w.flushOnQuiesce).returnToRunning.fetchArbiter := by
  rcases hstate with hstate | hstate <;>
    simp [State.writeControl, hsoft, hstate, hquiesce, State.storeFlushOnQuiesce]

end

/-- R58: only a QUIESCING engine with the flush option adds to flush mode. -/
theorem State.flushMode_of_not_quiescing {s : State} (h : s.engine.state ≠ .quiescing) :
    s.flushMode = s.writeBack.activeFlushAll.isSome := by
  simp [State.flushMode, h]

/-- Settles O36: the stored FLUSH_ON_QUIESCE leaves the admin ring registers as they were, and their check decides which way the enable
goes. -/
theorem enableIsJudged : Obligations.EnableIsJudged := by
  unfold Obligations.EnableIsJudged
  intro s q f srEntries crEntries husable hdisabled hsr hcr
  rw [← State.adminRegistersValid_iff hsr hcr, ← s.adminRegistersValid_storeFlushOnQuiesce f, exec_enable husable,
    State.writeControl_of_disabled rfl hdisabled rfl]
  constructor
  · intro hvalid
    rw [State.tryEnable_of_valid hvalid, hsr, hcr, State.createAdminPair]
    rfl
  · intro hinvalid
    rw [State.tryEnable_of_not_valid hinvalid, State.storeFlushOnQuiesce]

/-- Settles O38: both states take the same way back, and a RUNNING engine adds nothing to flush mode. -/
theorem quiesceClearedReturnsToRunning : Obligations.QuiesceClearedReturnsToRunning := by
  unfold Obligations.QuiesceClearedReturnsToRunning
  intro s e f husable hstate
  constructor
  · rw [exec_quiesceCleared husable, State.writeControl_of_quiesceCleared rfl hstate rfl, State.returnToRunning,
      State.storeFlushOnQuiesce]
  · rw [State.flushMode_of_not_quiescing (by simp)]

end Sys2Proof.Machine
end

section
/-! PROOFS. The laws that every step keeps (O7 to O13). Each is shown to survive the changes that commands are built from (`StableExec`);
that every command consists of such changes is `StableExec.step_keeps`. A law speaks of one block of the state, so all but the changes of that
block leave it as it stands. -/

namespace Sys2Proof.Machine

/-- A halt is a change of Engine Control alone. -/
theorem State.exists_halt_eq (s : State) : ∃ e, s.halt = { s with engine := e } := by
  unfold State.halt
  split <;> exact ⟨_, rfl⟩

/-! ### The cleaner marks and the pressure flag (R56, R57) -/

/-- The judgement makes the flag agree with the dirty count, whatever it was. -/
theorem State.judgePressure_cleanerSound {s : State} (hmarks : s.writeBack.lowMark < s.writeBack.highMark)
    (hhigh : s.writeBack.highMark ≤ 32768) : s.judgePressure.CleanerSound := by
  refine ⟨hmarks, hhigh, fun hset => ?_, fun hclear => ?_⟩
  · exact if_pos hset
  · have hbelow : ¬s.writeBack.highMark ≤ s.writeBack.dirtyOrder.length := fun hset =>
      absurd (lt_of_lt_of_le hmarks hset) (not_lt.mpr hclear)
    exact (if_neg hbelow).trans (if_pos hclear)

theorem State.reset_cleanerSound : State.reset.CleanerSound := by
  refine ⟨by decide, by decide, fun hset => ?_, fun _ => rfl⟩
  exact absurd hset (by decide)

theorem cleanerSound_stable : StableExec False State.CleanerSound := by
  constructor
  case toStable =>
    constructor
    case dirty => exact fun s d ⟨hmarks, hhigh, _⟩ => State.judgePressure_cleanerSound hmarks hhigh
    case halt =>
      intro s hs
      obtain ⟨e, he⟩ := s.exists_halt_eq
      rw [he]
      exact hs
    all_goals intros; assumption
  case quiet => exact fun _ hfalse => hfalse.elim
  case marks => exact fun s a b _ hlt hle => State.judgePressure_cleanerSound hlt hle
  case soft => exact fun _ _ => State.reset_cleanerSound
  case reset => exact State.reset_cleanerSound
  all_goals intros; assumption

/-- Settles O7: the flag is judged afresh wherever the dirty count or the marks change. -/
theorem stepKeepsCleanerSound : Obligations.StepKeepsCleanerSound := by
  unfold Obligations.StepKeepsCleanerSound
  exact fun s t => cleanerSound_stable.step_keeps

/-! ### The media parameters and the capacity (R82, R101) -/

theorem State.reset_mediaSound : State.reset.MediaSound :=
  ⟨by decide, by decide, by decide, by decide, fun hup => absurd hup (by decide)⟩

theorem mediaSound_stable : StableExec False State.MediaSound := by
  constructor
  case toStable =>
    constructor
    case halt =>
      intro s hs
      obtain ⟨e, he⟩ := s.exists_halt_eq
      rw [he]
      exact hs
    all_goals intros; assumption
  case quiet => exact fun _ hfalse => hfalse.elim
  case down => exact fun s ⟨h₁, h₂, h₃, hcapacity, _⟩ => ⟨h₁, h₂, h₃, hcapacity, fun hup => nomatch hup⟩
  case up =>
    intro s c ⟨h₁, h₂, h₃, _⟩ hvalid
    simp only [capacityValid, Bool.and_eq_true, decide_eq_true_eq] at hvalid
    exact ⟨h₁, h₂, h₃, hvalid.2, fun _ => hvalid.1⟩
  case params => exact fun s a b ⟨_, _, _, hlink⟩ h₁ h₂ h₃ => ⟨h₁, h₂, h₃, hlink⟩
  case soft =>
    intro s ⟨_, _, _, hlink⟩
    obtain ⟨h₁, h₂, h₃, _⟩ := State.reset_mediaSound
    exact ⟨h₁, h₂, h₃, hlink⟩
  case reset => exact State.reset_mediaSound
  all_goals intros; assumption

/-- Settles O8: the parameters and an announced capacity are checked before they are taken; a soft reset keeps link and capacity. -/
theorem stepKeepsMediaSound : Obligations.StepKeepsMediaSound := by
  unfold Obligations.StepKeepsMediaSound
  exact fun s t => mediaSound_stable.step_keeps

/-! ### The frame store -/

theorem framesCanonical_stable : StableExec False State.FramesCanonical := by
  constructor
  case toStable =>
    constructor
    case halt =>
      intro s hs
      obtain ⟨e, he⟩ := s.exists_halt_eq
      rw [he]
      exact hs
    all_goals intros; assumption
  case quiet => exact fun _ hfalse => hfalse.elim
  case frame => exact fun s l d hs => Memory.wf_writeBlock s.frames l.frameBase d hs
  case reset => exact rfl
  all_goals intros; assumption

/-- Settles O9: a frame is written as a block, which keeps the canonical form. -/
theorem stepKeepsFramesCanonical : Obligations.StepKeepsFramesCanonical := by
  unfold Obligations.StepKeepsFramesCanonical
  exact fun s t => framesCanonical_stable.step_keeps

/-! ### The recency orders (R6) -/

theorem count_moveToFront {order : List WayId} (h : ∀ w : WayId, order.count w = 1) (v w : WayId) :
    (v :: order.filter (· != v)).count w = 1 := by
  by_cases hv : v = w
  · subst hv
    have hnone : (order.filter (· != v)).count v = 0 := List.count_eq_zero.mpr (by simp)
    rw [List.count_cons_self, hnone]
  · have hkeeps : (w != v) = true := by simpa using fun e : w = v => hv e.symm
    rw [List.count_cons_of_ne hv, List.count_filter (p := (· != v)) hkeeps, h w]

theorem CacheSet.SameRecency.count_eq_one {cs old : CacheSet} (h : cs.SameRecency old)
    (hold : ∀ w : WayId, old.recency.count w = 1) (w : WayId) : cs.recency.count w = 1 := by
  rcases h with h | ⟨v, h⟩
  · rw [h]
    exact hold w
  · rw [h]
    exact count_moveToFront hold v w

theorem CacheSet.reset_recency_count (w : WayId) : CacheSet.reset.recency.count w = 1 := by
  revert w
  decide

theorem State.RecencyComplete.setCacheSet {s : State} {S : SetId} {cs : CacheSet} (h : s.RecencyComplete)
    (hcs : ∀ w : WayId, cs.recency.count w = 1) : (s.setCacheSet S cs).RecencyComplete := by
  intro R w
  by_cases hR : S = R
  · subst hR
    rw [State.cacheSet_setCacheSet_self]
    exact hcs w
  · rw [State.cacheSet_setCacheSet_ne _ _ _ _ hR]
    exact h R w

theorem recencyComplete_stable : StableExec False State.RecencyComplete := by
  constructor
  case toStable =>
    constructor
    case set => exact fun s S cs hs hsame _ => hs.setCacheSet fun w => hsame.count_eq_one (hs S) w
    case reinit => exact fun s S hs => hs.setCacheSet CacheSet.reset_recency_count
    case pin => exact fun s l hs _ _ => hs.setCacheSet fun w => hs l.set w
    case halt =>
      intro s hs
      obtain ⟨e, he⟩ := s.exists_halt_eq
      rw [he]
      exact hs
    all_goals intros; assumption
  case quiet => exact fun _ hfalse => hfalse.elim
  case soft => exact fun _ _ _ => CacheSet.reset_recency_count
  case reset => exact fun _ => CacheSet.reset_recency_count
  all_goals intros; assumption

/-- Settles O10: a way that is used moves to the front of its set's order, and no other change touches an order. -/
theorem stepKeepsRecencyComplete : Obligations.StepKeepsRecencyComplete := by
  unfold Obligations.StepKeepsRecencyComplete
  exact fun s t => recencyComplete_stable.step_keeps

/-! ### The pins (R10) -/

/-- At most 6 ways of the set are pinned, and none more than 255 times. -/
def CacheSet.PinsLimited (cs : CacheSet) : Prop :=
  ((List.finRange 8).countP fun w => 0 < cs.ways[w].pins) ≤ 6 ∧ ∀ w : WayId, cs.ways[w].pins ≤ 255

theorem State.pinsLimited_iff {s : State} : s.PinsLimited ↔ ∀ S, (s.cacheSet S).PinsLimited := Iff.rfl

theorem CacheSet.reset_pinsLimited : CacheSet.reset.PinsLimited := by
  unfold CacheSet.PinsLimited
  decide

theorem CacheSet.PinsLimited.of_noMorePins {cs old : CacheSet} (h : old.PinsLimited) (hle : cs.NoMorePins old) :
    cs.PinsLimited := by
  refine ⟨le_trans (List.countP_mono_left fun w _ hw => ?_) h.1, fun w => le_trans (hle w) (h.2 w)⟩
  simp only [decide_eq_true_eq] at hw ⊢
  exact lt_of_lt_of_le hw (hle w)

/-- The pinned ways are the others and, if it is pinned, the way itself. -/
theorem CacheSet.countP_pinned (cs : CacheSet) (w : WayId) :
    ((List.finRange 8).countP fun v => 0 < cs.ways[v].pins) =
      cs.otherPinned w + if 0 < cs.ways[w].pins then 1 else 0 := by
  have hsplit (l : List WayId) (hl : l.Nodup) : (l.countP fun v => 0 < cs.ways[v].pins) =
      (l.countP fun v => v != w && 0 < cs.ways[v].pins) + if w ∈ l ∧ 0 < cs.ways[w].pins then 1 else 0 := by
    induction l with
    | nil => simp
    | cons x l ih =>
      obtain ⟨hx, hl⟩ := List.nodup_cons.mp hl
      rw [List.countP_cons, List.countP_cons, ih hl]
      by_cases hxw : x = w
      · subst hxw
        simp [hx]
      · have hwx : ¬w = x := fun e => hxw e.symm
        simp [hxw, hwx]
        omega
  simpa [CacheSet.otherPinned] using hsplit (List.finRange 8) (List.nodup_finRange 8)

/-- R10: a further pin that meets neither limit. -/
theorem CacheSet.PinsLimited.pin {cs : CacheSet} {w : WayId} (h : cs.PinsLimited) (hmax : cs.ways[w].pins ≠ 255)
    (hseventh : ¬(cs.ways[w].pins = 0 ∧ cs.otherPinned w = 6)) :
    CacheSet.PinsLimited { cs with ways := cs.ways.set w { cs.ways[w] with pins := cs.ways[w].pins + 1 } } := by
  obtain ⟨hcount, hpins⟩ := h
  have hother (v : WayId) (hv : v ≠ w) :
      (cs.ways.set w { cs.ways[w] with pins := cs.ways[w].pins + 1 })[v] = cs.ways[v] := by
    have hval : w.val ≠ v.val := fun e => hv (Fin.ext e.symm)
    simp [hval]
  have hself : (cs.ways.set w { cs.ways[w] with pins := cs.ways[w].pins + 1 })[w].pins = cs.ways[w].pins + 1 := by simp
  refine ⟨?_, fun v => ?_⟩
  · have hsame : CacheSet.otherPinned { cs with ways := cs.ways.set w { cs.ways[w] with pins := cs.ways[w].pins + 1 } } w =
        cs.otherPinned w := by
      unfold CacheSet.otherPinned
      refine List.countP_congr fun v _ => ?_
      by_cases hv : v = w
      · simp [hv]
      · dsimp only
        rw [hother v hv]
    rw [CacheSet.countP_pinned cs w] at hcount
    rw [CacheSet.countP_pinned _ w, hsame]
    dsimp only
    rw [hself]
    split at hcount <;> simp <;> omega
  · by_cases hv : v = w
    · subst hv
      dsimp only
      rw [hself]
      have := hpins v
      omega
    · dsimp only
      rw [hother v hv]
      exact hpins v

theorem State.PinsLimited.setCacheSet {s : State} {S : SetId} {cs : CacheSet} (h : s.PinsLimited)
    (hcs : cs.PinsLimited) : (s.setCacheSet S cs).PinsLimited := by
  rw [State.pinsLimited_iff] at h ⊢
  intro R
  by_cases hR : S = R
  · subst hR
    rw [State.cacheSet_setCacheSet_self]
    exact hcs
  · rw [State.cacheSet_setCacheSet_ne _ _ _ _ hR]
    exact h R

theorem pinsLimited_stable : StableExec False State.PinsLimited := by
  constructor
  case toStable =>
    constructor
    case set =>
      exact fun s S cs hs _ hle => hs.setCacheSet ((State.pinsLimited_iff.mp hs S).of_noMorePins hle)
    case reinit => exact fun s S hs => hs.setCacheSet CacheSet.reset_pinsLimited
    case pin => exact fun s l hs hmax hseventh => hs.setCacheSet ((State.pinsLimited_iff.mp hs l.set).pin hmax hseventh)
    case halt =>
      intro s hs
      obtain ⟨e, he⟩ := s.exists_halt_eq
      rw [he]
      exact hs
    all_goals intros; assumption
  case quiet => exact fun _ hfalse => hfalse.elim
  case soft => exact fun _ _ _ => CacheSet.reset_pinsLimited
  case reset => exact fun _ => CacheSet.reset_pinsLimited
  all_goals intros; assumption

/-- Settles O11: a PIN that starts meets neither limit of R10, and no other change raises the pins of a way. -/
theorem stepKeepsPinsLimited : Obligations.StepKeepsPinsLimited := by
  unfold Obligations.StepKeepsPinsLimited
  exact fun s t => pinsLimited_stable.step_keeps

/-! ### Ring sizes and indexes (R124, R125) -/

/-- The size is one of R124 and R125, and the indexes lie below it. -/
def RingInRange (entries head tail : Nat) : Prop := 2 ≤ entries ∧ entries ≤ 4096 ∧ head < entries ∧ tail < entries

/-- Every ring of the table that is not UNUSED is in range. -/
def State.SrsInRange (s : State) : Prop := ∀ n q, s.sr n = some q → RingInRange q.entries q.head q.tail

def State.CrsInRange (s : State) : Prop := ∀ n r, s.cr n = some r → RingInRange r.entries r.head r.tail

theorem State.indexesInRange_iff {s : State} : s.IndexesInRange ↔ s.SrsInRange ∧ s.CrsInRange := Iff.rfl

theorem RingInRange.moved {entries head tail head' tail' : Nat} (h : RingInRange entries head tail)
    (hhead : 0 < entries → head' < entries ∨ head' = head) (htail : 0 < entries → tail' < entries ∨ tail' = tail) :
    RingInRange entries head' tail' := by
  obtain ⟨hlow, hhigh, hh, ht⟩ := h
  refine ⟨hlow, hhigh, ?_, ?_⟩
  · rcases hhead (by omega) with hlt | heq
    · exact hlt
    · exact heq ▸ hh
  · rcases htail (by omega) with hlt | heq
    · exact hlt
    · exact heq ▸ ht

theorem State.SrsInRange.setSr {s : State} (h : s.SrsInRange) (n : RingId) {x : Option SubmissionRing}
    (hx : ∀ q, x = some q → RingInRange q.entries q.head q.tail) : (s.setSr n x).SrsInRange := by
  intro m q hq
  by_cases hm : n = m
  · subst hm
    rw [State.sr_setSr_self] at hq
    exact hx q hq
  · rw [State.sr_setSr_ne _ _ _ _ hm] at hq
    exact h m q hq

theorem State.CrsInRange.setCr {s : State} (h : s.CrsInRange) (n : RingId) {x : Option CompletionRing}
    (hx : ∀ r, x = some r → RingInRange r.entries r.head r.tail) : (s.setCr n x).CrsInRange := by
  intro m r hr
  by_cases hm : n = m
  · subst hm
    rw [State.cr_setCr_self] at hr
    exact hx r hr
  · rw [State.cr_setCr_ne _ _ _ _ hm] at hr
    exact h m r hr

theorem State.IndexesInRange.setSr {s : State} (h : s.IndexesInRange) (n : RingId) {x : Option SubmissionRing}
    (hx : ∀ q, x = some q → RingInRange q.entries q.head q.tail) : (s.setSr n x).IndexesInRange := by
  rw [State.indexesInRange_iff] at h ⊢
  exact ⟨h.1.setSr n hx, h.2⟩

theorem State.IndexesInRange.setCr {s : State} (h : s.IndexesInRange) (n : RingId) {x : Option CompletionRing}
    (hx : ∀ r, x = some r → RingInRange r.entries r.head r.tail) : (s.setCr n x).IndexesInRange := by
  rw [State.indexesInRange_iff] at h ⊢
  exact ⟨h.1, h.2.setCr n hx⟩

/-- A ring is created empty, with both indexes 0. -/
theorem ringInRange_empty {entries : Nat} (hlow : 2 ≤ entries) (hhigh : entries ≤ 4096) : RingInRange entries 0 0 :=
  ⟨hlow, hhigh, by omega, by omega⟩

/-- A ring with a size of R108 and both indexes 0 is in range. -/
theorem ringInRange_of_ringAreaValid {r : Record} {bytes : Nat} (h : ringAreaValid r bytes = true) :
    RingInRange (Rec.ringEntries r) 0 0 := by
  simp only [ringAreaValid, Bool.and_eq_true, decide_eq_true_eq] at h
  obtain ⟨⟨⟨hlow, hhigh⟩, _⟩, _⟩ := h
  exact ringInRange_empty hlow hhigh

theorem State.noRings_indexesInRange {s : State} (hsr : ∀ n, s.sr n = none) (hcr : ∀ n, s.cr n = none) :
    s.IndexesInRange := by
  refine ⟨fun n q hq => ?_, fun n r hr => ?_⟩
  · rw [hsr n] at hq
    cases hq
  · rw [hcr n] at hr
    cases hr

theorem RingUnit.reset_rings (n : RingId) : RingUnit.reset.srs[n] = none ∧ RingUnit.reset.crs[n] = none := by
  simp [RingUnit.reset]

theorem indexesInRange_stable : StableExec False State.IndexesInRange := by
  constructor
  case toStable =>
    constructor
    case sr =>
      intro s n q st b hs hq
      exact hs.setSr n fun _ e => Option.some.inj e ▸ hs.1 n q hq
    case srGone => exact fun s n hs => hs.setSr n fun _ e => nomatch e
    case cr =>
      rintro s n q r hs hr ⟨_, hentries, htail, hhead, _⟩
      refine hs.setCr n fun _ e => ?_
      rw [← Option.some.inj e, hentries, htail, hhead]
      exact hs.2 n q hr
    case halt =>
      intro s hs
      obtain ⟨e, he⟩ := s.exists_halt_eq
      rw [he]
      exact hs
    all_goals intros; assumption
  case quiet => exact fun _ hfalse => hfalse.elim
  case addSr =>
    intro s n r hs _ hvalid
    simp only [fieldsValid, Bool.and_eq_true] at hvalid
    exact hs.setSr n fun _ e => Option.some.inj e ▸ ringInRange_of_ringAreaValid hvalid.1.2
  case addCr =>
    intro s n r hs _ hvalid
    simp only [fieldsValid, Bool.and_eq_true] at hvalid
    exact hs.setCr n fun _ e => Option.some.inj e ▸ ringInRange_of_ringAreaValid hvalid.1.2
  case srSame =>
    intro s n q r hs hq hentries hhead htail
    refine hs.setSr n fun _ e => ?_
    rw [← Option.some.inj e, hentries]
    exact RingInRange.moved (hs.1 n q hq) hhead htail
  case crSame =>
    intro s n q r hs hq hentries hhead htail
    refine hs.setCr n fun _ e => ?_
    rw [← Option.some.inj e, hentries]
    exact RingInRange.moved (hs.2 n q hq) hhead htail
  case crGone => exact fun s n hs => hs.setCr n fun _ e => nomatch e
  case soft =>
    exact fun _ _ => State.noRings_indexesInRange (fun n => (RingUnit.reset_rings n).1) fun n => (RingUnit.reset_rings n).2
  case reset =>
    exact State.noRings_indexesInRange (fun n => (RingUnit.reset_rings n).1) fun n => (RingUnit.reset_rings n).2
  case enabled =>
    intro s hs _ hvalid
    rw [State.adminRegistersValid_iff rfl rfl] at hvalid
    obtain ⟨hsrLow, hsrHigh, hcrLow, hcrHigh, _⟩ := hvalid
    have hsr := ringInRange_empty (le_trans (by decide) hsrLow) hsrHigh
    have hcr := ringInRange_empty (le_trans (by decide) hcrLow) hcrHigh
    exact (hs.setSr 0 fun _ e => Option.some.inj e ▸ hsr).setCr 0 fun _ e => Option.some.inj e ▸ hcr
  all_goals intros; assumption

/-- Settles O12: rings are created with a checked size and indexes 0, and every change of an index stays below the size. -/
theorem stepKeepsIndexesInRange : Obligations.StepKeepsIndexesInRange := by
  unfold Obligations.StepKeepsIndexesInRange
  exact fun s t => indexesInRange_stable.step_keeps

/-! ### No rings while DISABLED (R148, R173) -/

theorem State.NoRingsWhileDisabled.awake_of_sr {s : State} {n : RingId} {q : SubmissionRing}
    (h : s.NoRingsWhileDisabled) (hq : s.sr n = some q) : s.engine.state ≠ .disabled := by
  intro hdisabled
  have hnone := ((h hdisabled).2 n).1
  rw [hq] at hnone
  cases hnone

theorem State.NoRingsWhileDisabled.awake_of_cr {s : State} {n : RingId} {r : CompletionRing}
    (h : s.NoRingsWhileDisabled) (hr : s.cr n = some r) : s.engine.state ≠ .disabled := by
  intro hdisabled
  have hnone := ((h hdisabled).2 n).2
  rw [hr] at hnone
  cases hnone

/-- A ring that becomes UNUSED adds none. -/
theorem State.NoRingsWhileDisabled.srGone {s : State} (h : s.NoRingsWhileDisabled) (n : RingId) :
    (s.setSr n none).NoRingsWhileDisabled := by
  intro hdisabled
  refine ⟨(h hdisabled).1, fun m => ⟨?_, ((h hdisabled).2 m).2⟩⟩
  by_cases hm : n = m
  · rw [hm, State.sr_setSr_self]
  · rw [State.sr_setSr_ne _ _ _ _ hm]
    exact ((h hdisabled).2 m).1

theorem State.NoRingsWhileDisabled.crGone {s : State} (h : s.NoRingsWhileDisabled) (n : RingId) :
    (s.setCr n none).NoRingsWhileDisabled := by
  intro hdisabled
  refine ⟨(h hdisabled).1, fun m => ⟨((h hdisabled).2 m).1, ?_⟩⟩
  by_cases hm : n = m
  · rw [hm, State.cr_setCr_self]
  · rw [State.cr_setCr_ne _ _ _ _ hm]
    exact ((h hdisabled).2 m).2

theorem State.reset_noRingsWhileDisabled : State.reset.NoRingsWhileDisabled :=
  fun _ => ⟨rfl, RingUnit.reset_rings⟩

theorem noRingsWhileDisabled_stable : StableExec True State.NoRingsWhileDisabled := by
  constructor
  case toStable =>
    constructor
    case sr => exact fun s n q st b hs hq hdisabled => absurd hdisabled (hs.awake_of_sr hq)
    case srGone => exact fun s n hs => hs.srGone n
    case cr => exact fun s n q r hs hr _ hdisabled => absurd hdisabled (hs.awake_of_cr hr)
    case halt =>
      intro s hs
      unfold State.halt
      split
      case h_4 => exact hs
      case h_5 => exact hs
      all_goals exact fun hdisabled => nomatch hdisabled
    case quiesced => exact fun s b _ _ hdisabled => nomatch hdisabled
    all_goals intros; assumption
  case quiet =>
    intro s _ hs hdisabled
    refine ⟨?_, fun n => ((hs hdisabled).2 n).1⟩
    rw [State.arrival, (hs hdisabled).1]
  case intake => exact fun s q _ hawake hdisabled => absurd hdisabled (hawake trivial)
  case addSr => exact fun s n r _ hawake _ hdisabled => absurd hdisabled (hawake trivial)
  case addCr => exact fun s n r _ hawake _ hdisabled => absurd hdisabled (hawake trivial)
  case srSame => exact fun s n q r hs hq _ _ _ hdisabled => absurd hdisabled (hs.awake_of_sr hq)
  case crSame => exact fun s n q r hs hr _ _ _ hdisabled => absurd hdisabled (hs.awake_of_cr hr)
  case crGone => exact fun s n hs => hs.crGone n
  case soft => exact fun _ _ => State.reset_noRingsWhileDisabled
  case reset => exact State.reset_noRingsWhileDisabled
  case enabled => exact fun s _ _ _ hdisabled => nomatch hdisabled
  case quiescing => exact fun s _ _ hdisabled => nomatch hdisabled
  case running => exact fun s _ _ hdisabled => nomatch hdisabled
  all_goals intros; assumption

/-- Settles O13: no record arrives and no ring is created while DISABLED, and only a reset makes the engine DISABLED. -/
theorem stepKeepsNoRingsWhileDisabled : Obligations.StepKeepsNoRingsWhileDisabled := by
  unfold Obligations.StepKeepsNoRingsWhileDisabled
  exact fun s t => noRingsWhileDisabled_stable.step_keeps

end Sys2Proof.Machine
end

section
/-! PROOFS. A step and the queue of commands that wait; the resets (R179 to R181) and the closing of the register window (R180). -/

namespace Sys2Proof.Machine

/-- Settles O1: both clauses are the arms of `step`. -/
theorem stepRunsFrontCommand : Obligations.StepRunsFrontCommand := by
  unfold Obligations.StepRunsFrontCommand
  constructor
  · intro s c rest hpending
    simp only [step, hpending]
  · intro s hpending
    simp only [step, hpending]

/-! ### Reset values -/

/-- With no set listed, every set holds its reset value. -/
theorem State.cacheSet_of_no_sets {s : State} (h : s.directory.sets = []) (S : SetId) : s.cacheSet S = CacheSet.reset := by
  rw [State.cacheSet, h]
  rfl

theorem CacheSet.reset_way (w : WayId) : CacheSet.reset.ways[w] = Line.reset := by
  simp [CacheSet.reset]

/-- A soft reset clears every block, whatever it keeps of the Media Port and the Host Port. -/
theorem State.softReset_resetValues (s : State) : s.softReset.ResetValues := by
  have hset : ∀ S, s.softReset.cacheSet S = CacheSet.reset := State.cacheSet_of_no_sets rfl
  refine ⟨fun l => ?_, fun S => ?_, rfl, fun i => ?_, rfl, rfl, rfl, fun k => ?_, fun c => ?_, rfl, rfl, rfl, rfl,
    RingUnit.reset_rings, rfl, rfl, rfl, rfl, fun i => ?_, rfl, fun v => ?_, rfl⟩
  · rw [State.line, hset]
    exact CacheSet.reset_way l.way
  · rw [hset]
    exact ⟨rfl, rfl, rfl⟩
  · simp [State.slot, State.softReset, MediaPort.reset]
  · simp [State.softReset, State.reset, FaultUnit.reset, CaptureEntry.reset]
  · simp [State.ctx, State.softReset, State.reset, CommandUnit.reset]
  · simp [State.channel, State.softReset, HostPort.reset]
  · simp [State.softReset, HostPort.reset]

/-- Settles O3: the state after power-on is its own soft reset. -/
theorem powerOnGivesResetState : Obligations.PowerOnGivesResetState := by
  unfold Obligations.PowerOnGivesResetState
  intro s
  have hreset : ({ State.reset with pending := s.pending } : State).ResetValues :=
    State.softReset_resetValues { State.reset with pending := s.pending }
  exact ⟨_, rfl, hreset, rfl, rfl, rfl, rfl, rfl, rfl⟩

theorem exec_softReset {s : State} (h : s.host.linkUsable = true) (e q f : Bool) :
    exec (.softReset e q f) s = .next s.softReset :=
  congrArg Host.Outcome.next (State.ifUsable_of_usable h _)

/-- Settles O4: SOFT_RESET is judged before the other fields of the write. -/
theorem softResetKeepsLinkCapacityAndAdminRegisters : Obligations.SoftResetKeepsLinkCapacityAndAdminRegisters := by
  unfold Obligations.SoftResetKeepsLinkCapacityAndAdminRegisters
  intro s e q f husable
  rw [exec_softReset husable]
  exact ⟨_, rfl, s.softReset_resetValues, rfl, rfl, rfl, rfl, rfl, rfl⟩

/-! ### The host link -/

theorem State.ifUsable_of_not_usable {s : State} (h : s.host.linkUsable = false) (t : State) : s.ifUsable t = s :=
  if_neg (by simp [h])

/-- Settles O5: the link reset is a soft reset that leaves the link not usable, and every command of the window asks whether it is. -/
theorem hostLinkResetClosesTheWindow : Obligations.HostLinkResetClosesTheWindow := by
  unfold Obligations.HostLinkResetClosesTheWindow
  refine ⟨fun s => ?_, fun s hclosed => ?_, fun s => rfl⟩
  · have hreset : (s.softReset.setLinkUsable false).ResetValues := s.softReset_resetValues
    exact ⟨_, rfl, hreset, rfl, rfl, rfl, rfl, rfl, rfl, rfl⟩
  · have hignored (t : State) : (Host.Outcome.next (s.ifUsable t) : Host.Outcome State Fault Refusal) = .next s :=
      congrArg Host.Outcome.next (State.ifUsable_of_not_usable hclosed t)
    exact ⟨fun q f => hignored _, fun e f => hignored _, fun e f => hignored _, fun f e q => hignored _,
      fun e q f => hignored _, fun n v => hignored _, fun n v => hignored _, fun o z v => hignored _⟩

/-- Settles O6: each law at reset is what its step lemma needs for power-on. -/
theorem resetStateKeepsEveryLaw : Obligations.ResetStateKeepsEveryLaw := by
  unfold Obligations.ResetStateKeepsEveryLaw
  exact ⟨State.reset_cleanerSound, State.reset_mediaSound, framesCanonical_stable.reset, recencyComplete_stable.reset,
    pinsLimited_stable.reset, indexesInRange_stable.reset, State.reset_noRingsWhileDisabled⟩

end Sys2Proof.Machine
end

section
/-! PROOFS. Arrivals that are refused (R106, R107), the order of the intake checks (Table 5.5), and the admin commands whose execution is one
change of the state (R101, R118, R128, R139, R164). -/

namespace Sys2Proof.Machine

/-- Every row of the table that a record's arrival makes is an arrival of its command. -/
theorem exec_row (k : CommandKind) (p : Bool) (s : State) :
    ∃ dispatch finish, exec (k.row p) s = .next (s.arrive k dispatch finish) := by
  cases k <;> exact ⟨_, _, rfl⟩

theorem exec_opcodeNamesNoCommand (s : State) : exec .opcodeNamesNoCommand s = .next s.arriveUnnamed := by
  rfl

/-- Settles O18: the status of the first failing check is posted in place of the dispatch, for every row alike. -/
theorem refusedCommandOnlyPosts : Obligations.RefusedCommandOnlyPosts := by
  unfold Obligations.RefusedCommandOnlyPosts
  refine ⟨fun s k p a harrival hcommand hstatus => ?_, fun s a harrival hunnamed => ?_, fun s a => ?_⟩
  · obtain ⟨dispatch, finish, hrow⟩ := exec_row k p s
    rw [hrow, State.arrive_eq dispatch finish harrival hcommand, if_neg hstatus]
  · simp only [exec_opcodeNamesNoCommand, State.arriveUnnamed, harrival, hunnamed]
  · exact ⟨s.takeArrival_command a, rfl, fun d hd => s.takeArrival_ctx a hd, rfl, rfl, rfl, rfl⟩

/-! ### The intake checks -/

theorem State.duplicateId_iff {s : State} {c : CtxId} {sr : RingId} {id : Nat} :
    s.duplicateId c sr id = true ↔
      ∃ d cmd, d ≠ c ∧ s.command d = some cmd ∧ cmd.sr = sr ∧ Rec.commandId cmd.record = id := by
  simp only [State.duplicateId, List.any_eq_true, List.mem_finRange, true_and]
  refine exists_congr fun d => ?_
  cases hd : s.command d with
  | none => simp
  | some cmd => simp [and_assoc]

theorem State.rangeValid_iff {s : State} {k : CommandKind} {r : Record} :
    s.rangeValid k r = true ↔ (k.bopKind.isSome = true → Rec.firstBlock r + Rec.blockCount r ≤ s.media.capacity) := by
  unfold State.rangeValid
  cases k.bopKind with
  | none => simp
  | some b => simp

theorem State.roomFor_iff {s : State} {k : CommandKind} :
    s.roomFor k = true ↔ (k = .flushAll → s.commands.flushAllQueue.length < 16) ∧
      (k = .awaitNotice → s.commands.noticeRequests.length < 4) := by
  cases k <;> simp [State.roomFor]

/-- Settles O19: each check is reached where those before it passed. -/
theorem intakeChecksInOrder : Obligations.IntakeChecksInOrder := by
  unfold Obligations.IntakeChecksInOrder
  intro s k c sr r
  refine ⟨fun hinvalid => State.intakeStatus_of_fieldsInvalid hinvalid s c sr, fun hvalid => ⟨?_, fun hrange => ?_⟩⟩
  · rintro ⟨hsplit, hbeyond⟩
    have hrange : s.rangeValid k r = false := by
      rw [Bool.eq_false_iff, ne_eq, State.rangeValid_iff]
      exact fun h => absurd (h hsplit) (not_le.mpr hbeyond)
    simp [State.intakeStatus, hvalid, hrange]
  rw [← State.rangeValid_iff] at hrange
  refine ⟨fun hduplicate => ?_, fun hfresh => ⟨fun hfull => ?_, fun hflush hnotice => ?_⟩⟩
  · rw [← State.duplicateId_iff] at hduplicate
    simp [State.intakeStatus, hvalid, hrange, hduplicate]
  all_goals
    have hunique : s.duplicateId c sr (Rec.commandId r) = false := by
      rw [Bool.eq_false_iff, ne_eq, State.duplicateId_iff]
      rintro ⟨d, cmd, hd, hcmd, hsr, hid⟩
      exact hfresh d cmd hd hcmd hsr hid
  · have hroom : s.roomFor k = false := by
      rw [Bool.eq_false_iff, ne_eq, State.roomFor_iff]
      rintro ⟨hflush, hnotice⟩
      rcases hfull with ⟨hk, hfull⟩ | ⟨hk, hfull⟩
      · exact absurd (hflush hk) (not_lt.mpr hfull)
      · exact absurd (hnotice hk) (not_lt.mpr hfull)
    simp [State.intakeStatus, hvalid, hrange, hunique, hroom]
  · have hroom : s.roomFor k = true := State.roomFor_iff.mpr ⟨hflush, hnotice⟩
    simp [State.intakeStatus, hvalid, hrange, hunique, hroom]

/-! ### Completion rings are created and deleted -/

theorem exec_createCompletionRing (s : State) :
    exec .createCompletionRing s = .next (s.arrive .createCr dispatchCreateCompletionRing State.settleHost) := by
  rfl

/-- Settles O26: the taking of the arrival moves no ring. -/
theorem completionRingIsCreated : Obligations.CompletionRingIsCreated := by
  unfold Obligations.CompletionRingIsCreated
  rintro s a n haccepts rfl
  rw [exec_createCompletionRing, haccepts.arrive_eq, dispatchCreateCompletionRing, State.takeArrival_cr]
  simp only [Option.isSome_iff_ne_none]
  constructor
  · intro hconflict
    rw [if_pos hconflict]
  · intro hzero hfree
    rw [if_neg (by simp [hzero, hfree])]
    rfl

theorem exec_deleteCompletionRing (s : State) :
    exec .deleteCompletionRing s = .next (s.arrive .deleteCr dispatchDeleteCompletionRing State.settleHost) := by
  rfl

theorem State.crBound_iff {s : State} {n : RingId} : s.crBound n = true ↔ ∃ m q, s.sr m = some q ∧ q.boundCr = n := by
  simp only [State.crBound, List.any_eq_true, List.mem_finRange, true_and]
  refine exists_congr fun m => ?_
  cases hm : s.sr m with
  | none => simp
  | some q => simp

theorem State.takeArrival_crBound (s : State) (a : Arrival) (n : RingId) : (s.takeArrival a).crBound n = s.crBound n :=
  rfl

/-- Settles O28: only a ring in use, other than ring 0, that no submission ring is bound to can go. -/
theorem completionRingIsDeleted : Obligations.CompletionRingIsDeleted := by
  unfold Obligations.CompletionRingIsDeleted
  rintro s a n haccepts rfl
  rw [exec_deleteCompletionRing, haccepts.arrive_eq, dispatchDeleteCompletionRing, State.takeArrival_cr,
    State.takeArrival_crBound]
  simp only [State.crBound_iff]
  constructor
  · intro hconflict
    rw [if_pos hconflict]
  · intro hzero hused hunbound
    rw [if_neg]
    rintro (hn | hn | ⟨m, q, hq, hn⟩)
    · exact hzero hn
    · exact hused hn
    · exact hunbound m q hq hn

/-! ### SET MEDIA PARAMS -/

theorem exec_setMediaParams (s : State) :
    exec .setMediaParams s = .next (s.arrive .setMediaParams dispatchSetMediaParams State.settleHost) := by
  rfl

/-- The parameters that pass check 2 are in range (R101, R108). -/
theorem params_legal_of_fieldsValid {r : Record} (h : fieldsValid .setMediaParams r = true) :
    1 ≤ Rec.mediaTimeout r ∧ Rec.mediaTimeout r ≤ 10000 ∧ Rec.retryLimit r ≤ 7 := by
  simp only [fieldsValid, Bool.and_eq_true, decide_eq_true_eq] at h
  obtain ⟨⟨⟨⟨_, hlow⟩, hhigh⟩, hretry⟩, _⟩ := h
  exact ⟨hlow, hhigh, hretry⟩

/-- Settles O31: values out of range fail check 2 of intake; the others replace the parameters, which no slot in use reads again. -/
theorem mediaParametersAreSet : Obligations.MediaParametersAreSet := by
  unfold Obligations.MediaParametersAreSet
  constructor
  · intro s a harrival hcommand hrange
    have hinvalid : fieldsValid .setMediaParams a.record = false :=
      Bool.eq_false_iff.mpr fun hvalid => hrange (params_legal_of_fieldsValid hvalid)
    rw [exec_setMediaParams, State.arrive_of_fieldsInvalid _ _ harrival hcommand hinvalid]
  · intro s a haccepts
    rw [exec_setMediaParams, haccepts.arrive_eq, dispatchSetMediaParams, State.takeArrival_media]

/-! ### Geometry and snapshot -/

theorem exec_reportGeometry (s : State) :
    exec .reportGeometry s = .next (s.arrive .reportGeometry dispatchReportGeometry State.settleHost) := by
  rfl

theorem exec_readSet (s : State) : exec .readSet s = .next (s.arrive .readSet dispatchReadSet State.settleHost) := by
  rfl

theorem State.takeArrival_geometryRecord (s : State) (a : Arrival) :
    (s.takeArrival a).geometryRecord = s.geometryRecord :=
  rfl

@[simp] theorem State.takeArrival_cacheSet (s : State) (a : Arrival) (S : SetId) :
    (s.takeArrival a).cacheSet S = s.cacheSet S :=
  rfl

/-- Settles O32: the taking of the arrival leaves what the records show as it was. -/
theorem geometryAndSnapshotAreTaken : Obligations.GeometryAndSnapshotAreTaken := by
  unfold Obligations.GeometryAndSnapshotAreTaken
  constructor
  · intro s a haccepts
    rw [exec_reportGeometry, haccepts.arrive_eq, dispatchReportGeometry, State.takeArrival_geometryRecord]
  · intro s a haccepts
    rw [exec_readSet, haccepts.arrive_eq, dispatchReadSet, State.takeArrival_cacheSet]
    rfl

end Sys2Proof.Machine
end

section
/-! PROOFS. Writes of ENGINE CONTROL by the engine state (R170, R175), the quiesce condition (R176), interrupt messages (R145, R168), and a
check code that goes bad (R5). -/

namespace Sys2Proof.Machine

/-! ### A write of ENGINE CONTROL -/

theorem exec_flushOnQuiesce {s : State} (h : s.host.linkUsable = true) (f e q : Bool) :
    exec (.flushOnQuiesce f e q) s =
      .next (s.writeControl { enable := e, quiesce := q, flushOnQuiesce := f, softReset := false }) :=
  congrArg Host.Outcome.next (State.ifUsable_of_usable h _)

theorem exec_quiesce {s : State} (h : s.host.linkUsable = true) (e f : Bool) :
    exec (.quiesce e f) s =
      .next (s.writeControl { enable := e, quiesce := true, flushOnQuiesce := f, softReset := false }) :=
  congrArg Host.Outcome.next (State.ifUsable_of_usable h _)

section
variable {s : State} {w : ControlWrite} (hsoft : w.softReset = false)
include hsoft

/-- The writes that store FLUSH_ON_QUIESCE and do nothing else. -/
theorem State.writeControl_stores (h : (s.engine.state = .disabled ∧ w.enable = false) ∨
      (s.engine.state = .running ∧ w.quiesce = false) ∨ (s.engine.state = .quiesced ∧ w.quiesce = true) ∨
      s.engine.state = .halted) :
    s.writeControl w = s.storeFlushOnQuiesce w.flushOnQuiesce := by
  rcases h with ⟨hstate, hbit⟩ | ⟨hstate, hbit⟩ | ⟨hstate, hbit⟩ | hstate
  · simp [State.writeControl, hsoft, hstate, hbit, State.storeFlushOnQuiesce]
  · simp [State.writeControl, hsoft, hstate, hbit, State.storeFlushOnQuiesce]
  · simp [State.writeControl, hsoft, hstate, hbit, State.storeFlushOnQuiesce]
  · simp [State.writeControl, hsoft, hstate, State.storeFlushOnQuiesce]

theorem State.writeControl_of_running (hstate : s.engine.state = .running) (hquiesce : w.quiesce = true) :
    s.writeControl w = (s.storeFlushOnQuiesce w.flushOnQuiesce).enterQuiescing.settle := by
  simp [State.writeControl, hsoft, hstate, hquiesce, State.storeFlushOnQuiesce]

theorem State.writeControl_of_quiescing (hstate : s.engine.state = .quiescing) (hquiesce : w.quiesce = true) :
    s.writeControl w = (s.storeFlushOnQuiesce w.flushOnQuiesce).settle := by
  simp [State.writeControl, hsoft, hstate, hquiesce, State.storeFlushOnQuiesce]

end

/-! ### The quiesce condition -/

theorem State.contexts_toList (s : State) : s.commands.contexts.toList = (List.finRange 128).map s.ctx :=
  List.ext_getElem (by simp) fun i _ _ => by simp [State.ctx]

/-- No context counts (R123, R176): each is FREE or holds an AWAIT NOTICE. -/
theorem State.countedContexts_eq_zero_iff {s : State} :
    s.countedContexts = 0 ↔ ∀ c : CtxId, s.ctx c = .free ∨
      ∃ cmd, s.ctx c = .holding cmd ∧ commandOf cmd.sr cmd.record = some .awaitNotice := by
  rw [State.countedContexts, State.contexts_toList, List.countP_map, List.countP_eq_zero]
  simp only [List.mem_finRange, true_implies]
  refine forall_congr' fun c => ?_
  cases hc : s.ctx c with
  | free => simp [hc]
  | fetching n b => simp [hc, Context.holdsAwaitNotice]
  | holding cmd => simp [hc, Context.holdsAwaitNotice]

theorem State.quiesceCondition_iff {s : State} :
    s.quiesceCondition = true ↔
      (∀ c : CtxId, s.ctx c = .free ∨
        ∃ cmd, s.ctx c = .holding cmd ∧ commandOf cmd.sr cmd.record = some .awaitNotice) ∧
      (s.engine.flushOnQuiesce = true →
        s.writeBack.unclean0 + s.writeBack.unclean1 = 0 ∨ s.media.link = .down) := by
  rw [← State.countedContexts_eq_zero_iff, State.quiesceCondition, Bool.and_eq_true, beq_iff_eq]
  refine and_congr_right fun _ => ?_
  cases s.engine.flushOnQuiesce <;> simp [State.uncleanTotal]

/-- Settles O37: the four rows are one write of three fields, and the write acts by the state it finds. -/
theorem controlWriteActsByState : Obligations.ControlWriteActsByState := by
  unfold Obligations.ControlWriteActsByState
  refine ⟨fun s e q f husable => ?_, fun s => rfl, fun s => ⟨fun hstate => ?_, fun hstate => ?_⟩⟩
  · rw [exec_flushOnQuiesce husable]
    refine ⟨?_, ?_, ?_, fun hstate he => ?_, fun hstate hq => ?_, fun hstate hq => ?_, fun hstate hq => ?_,
      fun hstate hq => ?_, fun hstate => ?_⟩
    · rintro rfl
      exact exec_enable husable q f
    · rintro rfl
      exact exec_quiesce husable e f
    · rintro rfl
      exact exec_quiesceCleared husable e f
    · rw [State.writeControl_stores rfl (.inl ⟨hstate, he⟩), State.storeFlushOnQuiesce]
    · rw [State.writeControl_of_running rfl hstate hq]
      rfl
    · rw [State.writeControl_stores rfl (.inr (.inl ⟨hstate, hq⟩)), State.storeFlushOnQuiesce]
    · rw [State.writeControl_of_quiescing rfl hstate hq]
      rfl
    · rw [State.writeControl_stores rfl (.inr (.inr (.inl ⟨hstate, hq⟩))), State.storeFlushOnQuiesce]
    · rw [State.writeControl_stores rfl (.inr (.inr (.inr hstate))), State.storeFlushOnQuiesce]
  · rw [State.judgeQuiesce, if_neg fun h => hstate h.1]
  · rw [← State.quiesceCondition_iff]
    constructor
    · intro hcondition
      rw [State.judgeQuiesce, if_pos ⟨hstate, hcondition⟩]
      have hdown : (s.media.link == .down) = decide (s.media.link = .down) := by
        cases s.media.link <;> rfl
      rw [hdown]
      rfl
    · intro hcondition
      rw [State.judgeQuiesce, if_neg fun h => hcondition h.2]

/-! ### Messages -/

theorem exec_vectorUnmasked (v : VectorId) (s : State) : exec (.vectorUnmasked v) s = .next (s.unmask v) := by
  rfl

theorem exec_coalescingTimerExpires (n : RingId) (p : Bool) (s : State) :
    exec (.coalescingTimerExpires n p) s = .next (s.timerExpires n p) := by
  rfl

theorem State.sendInterrupt_eq {s : State} {n : RingId} {r : CompletionRing} (h : s.cr n = some r) (p : Bool) :
    s.sendInterrupt n p = (s.setCr n (some { r with unsignalled := 0, timer := none })).emit r.vector p := by
  simp only [State.sendInterrupt, h]

/-- Settles O42: a message goes out where the link permits it, and otherwise its vector becomes pending. -/
theorem vectorAndTimerSendMessages : Obligations.VectorAndTimerSendMessages := by
  unfold Obligations.VectorAndTimerSendMessages
  constructor
  · intro s v
    rw [exec_vectorUnmasked, State.unmask]
    constructor
    · intro hpending
      rw [if_pos hpending]
      rfl
    · intro hquiet
      rw [if_neg (by simpa using hquiet)]
  · intro s n r p hr
    have hexpires : s.timerExpires n p =
        if r.timer.isSome ∧ 1 ≤ r.unsignalled then s.sendInterrupt n p else s := by
      simp only [State.timerExpires, hr]
    rw [exec_coalescingTimerExpires, hexpires, State.sendInterrupt_eq hr]
    refine ⟨?_, ?_, fun hidle => by rw [if_neg hidle]⟩
    · rintro hdue rfl
      rw [if_pos hdue]
      rfl
    · rintro hdue rfl
      rw [if_pos hdue]
      rfl

/-! ### A check code goes bad -/

/-- Settles O50: the event is the change of one flag, unless the way has no code. -/
theorem checkCodeGoesBadAlone : Obligations.CheckCodeGoesBadAlone := by
  unfold Obligations.CheckCodeGoesBadAlone
  intro s S w
  have hexec : exec (.checkCodeGoesBad S w) s = .next (s.spoilCode ⟨S, w⟩) := rfl
  rw [hexec, State.spoilCode]
  constructor
  · intro hused
    rw [if_neg hused]
  · intro hinvalid
    rw [if_pos hinvalid]

end Sys2Proof.Machine
end

section
/-! PROOFS. Posting (R25, R115, R140, R143): a command that ends takes its outcome and goes to its completion ring, whatever ended it; and the
pool's service of the split queue (R114). -/

namespace Sys2Proof.Machine

/-! ### Updates that meet -/

@[simp] theorem State.setCtx_setCtx (s : State) (c : CtxId) (x y : Context) : (s.setCtx c x).setCtx c y = s.setCtx c y := by
  simp [State.setCtx]

@[simp] theorem State.setSr_setSr (s : State) (n : RingId) (x y : Option SubmissionRing) :
    (s.setSr n x).setSr n y = s.setSr n y := by
  simp [State.setSr]

@[simp] theorem State.setCr_setCr (s : State) (n : RingId) (x y : Option CompletionRing) :
    (s.setCr n x).setCr n y = s.setCr n y := by
  simp [State.setCr]

@[simp] theorem State.sr_setCtx (s : State) (c : CtxId) (x : Context) (n : RingId) : (s.setCtx c x).sr n = s.sr n := rfl
@[simp] theorem State.cr_setCtx (s : State) (c : CtxId) (x : Context) (n : RingId) : (s.setCtx c x).cr n = s.cr n := rfl
@[simp] theorem State.command_setCr (s : State) (n : RingId) (x : Option CompletionRing) (c : CtxId) :
    (s.setCr n x).command c = s.command c := rfl
@[simp] theorem State.command_setSr (s : State) (n : RingId) (x : Option SubmissionRing) (c : CtxId) :
    (s.setSr n x).command c = s.command c := rfl
@[simp] theorem State.command_hostWrite (s : State) (w : HostWrite) (c : CtxId) : (s.hostWrite w).command c = s.command c := rfl

/-- The command with the outcome of its execution (R117). -/
def Command.withOutcome (cmd : Command) (st : Status) (v : Nat) : Command :=
  { cmd with worst := st, failing := none, result := BitVec.ofNat 32 v, notice := none }

theorem State.setOutcome_eq {s : State} {c : CtxId} {cmd : Command} (h : s.command c = some cmd) (st : Status) (v : Nat) :
    s.setOutcome c st v = s.setCtx c (.holding (cmd.withOutcome st v)) := by
  simp only [State.setOutcome, h, Command.withOutcome]

/-! ### Joining a completion ring -/

section
variable {s : State} {c : CtxId} {cmd : Command} {q : SubmissionRing} {r : CompletionRing}
  (hcmd : s.command c = some cmd) (hq : s.sr cmd.sr = some q) (hr : s.cr q.boundCr = some r)
include hcmd hq hr

theorem State.joinPost_of_active (hactive : r.state = .active) :
    s.joinPost c = ((s.setCtx c (.holding { cmd with state := .posting })).setCr q.boundCr
      (some { r with postQueue := r.postQueue ++ [c] })).issueRecord q.boundCr := by
  simp only [State.joinPost, hcmd, hq, hr, if_pos hactive]

theorem State.joinPost_of_faulted (hfaulted : r.state = .faulted) :
    s.joinPost c = s.dropCompletion c cmd.reserved q.boundCr := by
  simp [State.joinPost, hcmd, hq, hr, hfaulted]

/-- R140: an idle ring writes the record at once. -/
theorem State.joinPost_of_idle (hactive : r.state = .active) (hqueue : r.postQueue = []) (hidle : r.writeInFlight = none) :
    s.joinPost c = ((s.setCtx c (.holding { cmd with state := .posting })).setCr q.boundCr
      (some { r with writeInFlight := some c })).hostWrite
        (.completion q.boundCr (r.base + 16 * r.tail) (completionRecord { cmd with state := .posting } q.head r.phase)) := by
  rw [State.joinPost_of_active hcmd hq hr hactive]
  simp [State.issueRecord, State.srHead, hqueue, hidle, hq]

/-- R140: behind a write in flight the context waits. -/
theorem State.joinPost_of_busy (hactive : r.state = .active) {d : CtxId} (hbusy : r.writeInFlight = some d) :
    s.joinPost c = (s.setCtx c (.holding { cmd with state := .posting })).setCr q.boundCr
      (some { r with postQueue := r.postQueue ++ [c] }) := by
  rw [State.joinPost_of_active hcmd hq hr hactive]
  simp [State.issueRecord, hbusy]

end

/-- A context that holds a command of the ring after it joined keeps a delete of the ring waiting. -/
theorem State.toPosting_of_holds {s : State} {c : CtxId} {cmd cmd' : Command} (hcmd : s.command c = some cmd)
    (hstays : (s.joinPost c).command c = some cmd') (hsr : cmd'.sr = cmd.sr) : s.toPosting c = s.joinPost c := by
  have hflight := State.srInFlight_of_command hstays
  rw [hsr] at hflight
  simp only [State.toPosting, hcmd]
  exact State.judgeDelete_of_inFlight hflight

section
variable {s : State} {c : CtxId} {cmd : Command} {q : SubmissionRing} {r : CompletionRing}
  (hcmd : s.command c = some cmd) (hq : s.sr cmd.sr = some q) (hr : s.cr q.boundCr = some r)
  (hactive : r.state = .active)
include hcmd hq hr hactive

theorem State.toPosting_of_idle (hqueue : r.postQueue = []) (hidle : r.writeInFlight = none) :
    s.toPosting c = ((s.setCtx c (.holding { cmd with state := .posting })).setCr q.boundCr
      (some { r with writeInFlight := some c })).hostWrite
        (.completion q.boundCr (r.base + 16 * r.tail) (completionRecord { cmd with state := .posting } q.head r.phase)) := by
  have hjoin := State.joinPost_of_idle hcmd hq hr hactive hqueue hidle
  rw [State.toPosting_of_holds (cmd' := { cmd with state := .posting }) hcmd (by simp [hjoin]) rfl, hjoin]

theorem State.toPosting_of_busy {d : CtxId} (hbusy : r.writeInFlight = some d) :
    s.toPosting c = (s.setCtx c (.holding { cmd with state := .posting })).setCr q.boundCr
      (some { r with postQueue := r.postQueue ++ [c] }) := by
  have hjoin := State.joinPost_of_busy hcmd hq hr hactive hbusy
  rw [State.toPosting_of_holds (cmd' := { cmd with state := .posting }) hcmd (by simp [hjoin]) rfl, hjoin]

end

theorem State.toPosting_of_faulted {s : State} {c : CtxId} {cmd : Command} {q : SubmissionRing} {r : CompletionRing}
    (hcmd : s.command c = some cmd) (hq : s.sr cmd.sr = some q) (hr : s.cr q.boundCr = some r)
    (hfaulted : r.state = .faulted) :
    s.toPosting c = (s.dropCompletion c cmd.reserved q.boundCr).judgeDelete cmd.sr := by
  simp only [State.toPosting, hcmd, State.joinPost_of_faulted hcmd hq hr hfaulted]

/-- Settles O21: the outcome is given to a context that is then FREE. -/
theorem completionIsDropped : Obligations.CompletionIsDropped := by
  unfold Obligations.CompletionIsDropped
  intro s c cmd q r st v hcmd hq hr hfaulted
  have hended := s.command_setCtx_self c (cmd.withOutcome st v)
  rw [State.finish, State.setOutcome_eq hcmd, State.toPosting_of_faulted hended hq hr hfaulted,
    State.dropCompletion_eq (s := s.setCtx c _) (x := r) hr, State.setCtx_setCtx]
  rfl

/-! ### A block operation completes -/

/-- R115 steps 2 and 3, field by field. -/
theorem Command.take_eq (cmd : Command) (st : Status) (offset : Nat) :
    cmd.take st offset = { cmd with
      worst := if cmd.worst.code < st.code then st else cmd.worst,
      failing := if cmd.worst.code < st.code then some offset
        else if cmd.worst = st ∧ st ≠ .ok then some (min (cmd.failing.getD offset) offset)
        else cmd.failing } := by
  unfold Command.take
  split
  · rfl
  · split
    · cases cmd.failing with
      | none => simp
      | some k => simp
    · rfl

section
variable {s : State} {b : Bop} {cmd : Command} (hcmd : s.command b.ctx = some cmd) (st : Status)
include hcmd

theorem State.completeBop_of_more (hmore : ¬(cmd.state = .running ∧ cmd.outstanding ≤ 1)) :
    s.completeBop b st =
      (s.setCtx b.ctx (.holding { cmd.take st b.offset with outstanding := cmd.outstanding - 1 })).poolServes := by
  have hstate : (cmd.take st b.offset).state = cmd.state := by rw [Command.take_eq]
  have hnot : ¬((cmd.take st b.offset).state = .running ∧ cmd.outstanding - 1 = 0) := by
    rw [hstate]
    exact fun ⟨hrunning, hlast⟩ => hmore ⟨hrunning, by omega⟩
  simp only [State.completeBop, hcmd]
  rw [if_neg hnot]

theorem State.completeBop_of_last (hrunning : cmd.state = .running) (hlast : cmd.outstanding ≤ 1) :
    s.completeBop b st =
      ((s.setCtx b.ctx (.holding { cmd.take st b.offset with outstanding := 0 })).toPosting b.ctx).poolServes := by
  have hstate : (cmd.take st b.offset).state = cmd.state := by rw [Command.take_eq]
  have hzero : cmd.outstanding - 1 = 0 := by omega
  simp only [State.completeBop, hcmd]
  rw [if_pos ⟨hstate.trans hrunning, hzero⟩, hzero]

end

/-! ### The freed block operation -/

theorem State.createBop_eq {s : State} {c : CtxId} {cmd : Command} {k : CommandKind} {kind : BopKind}
    (hcmd : s.command c = some cmd) (hk : commandOf cmd.sr cmd.record = some k) (hkind : k.bopKind = some kind) :
    s.createBop c = { s with commands := { s.commands with
      contexts := s.commands.contexts.set c (.holding { cmd with
        created := cmd.created + 1, outstanding := cmd.outstanding + 1 }),
      awaitingLookup := s.commands.awaitingLookup ++ [cmd.bop c kind cmd.created] } } := by
  simp only [State.createBop, hcmd, hk, Option.bind_some, hkind]
  rfl

theorem State.poolServes_of_empty {s : State} (h : s.commands.splitQueue = []) : s.poolServes = s := by
  simp only [State.poolServes, h]

section
variable {s : State} {c : CtxId} {rest : List CtxId} {cmd : Command} {k : CommandKind} {kind : BopKind}
  (hcmd : s.command c = some cmd) (hk : commandOf cmd.sr cmd.record = some k) (hkind : k.bopKind = some kind)
include hcmd hk hkind

theorem State.createBop_command :
    (s.createBop c).command c = some { cmd with created := cmd.created + 1, outstanding := cmd.outstanding + 1 } := by
  rw [State.createBop_eq hcmd hk hkind]
  simp [State.command, State.ctx]

variable (hqueue : s.commands.splitQueue = c :: rest)
include hqueue

/-- R114 item 3 for a command with offsets left: it stays at the head. -/
theorem State.poolServes_of_more (hmore : cmd.created + 1 < Rec.blockCount cmd.record) : s.poolServes = s.createBop c := by
  have hleft : ¬Rec.blockCount cmd.record ≤ cmd.created + 1 := by omega
  simp [State.poolServes, hqueue, State.createBop_command hcmd hk hkind, Command.allCreated, hleft]

/-- R114 item 3 for the last offset: the command leaves the queue, RUNNING with the operation just created. -/
theorem State.poolServes_of_last (hlast : Rec.blockCount cmd.record ≤ cmd.created + 1) :
    s.poolServes = { s with commands := { s.commands with
      contexts := s.commands.contexts.set c (.holding { cmd with
        state := .running, created := cmd.created + 1, outstanding := cmd.outstanding + 1 }),
      awaitingLookup := s.commands.awaitingLookup ++ [cmd.bop c kind cmd.created], splitQueue := rest } } := by
  have hall : Command.allCreated { cmd with created := cmd.created + 1, outstanding := cmd.outstanding + 1 } = true := by
    simpa [Command.allCreated] using hlast
  have hend : State.command { s.createBop c with commands := { (s.createBop c).commands with splitQueue := rest } } c =
      some { cmd with created := cmd.created + 1, outstanding := cmd.outstanding + 1 } :=
    State.createBop_command hcmd hk hkind
  simp only [State.poolServes, hqueue, State.createBop_command hcmd hk hkind, hall, if_true, State.endSplitting,
    hend, if_pos (Nat.succ_pos _)]
  simp [State.createBop_eq hcmd hk hkind, State.setCtx]

end

/-- Settles O20: a finished command and a command whose last block operation completed post alike. -/
theorem completionIsPosted : Obligations.CompletionIsPosted := by
  unfold Obligations.CompletionIsPosted
  refine ⟨fun s c cmd q r st v hcmd hq hr hactive => ?_, fun s b st worst failing cmd hcmd hworst hfailing => ?_, fun s => ?_⟩
  · have hended := s.command_setCtx_self c (cmd.withOutcome st v)
    rw [State.finish, State.setOutcome_eq hcmd]
    constructor
    · intro hqueue hidle
      rw [State.toPosting_of_idle hended hq hr hactive hqueue hidle, State.setCtx_setCtx]
      rfl
    · intro d hbusy
      rw [State.toPosting_of_busy hended hq hr hactive hbusy, State.setCtx_setCtx]
      rfl
  · have htake : cmd.take st b.offset = { cmd with worst := worst, failing := failing } := by
      rw [Command.take_eq, hworst, hfailing]
    constructor
    · intro hmore
      rw [State.completeBop_of_more hcmd st hmore, htake]
    · intro q r hrunning hlast hq hr hactive
      have hended := s.command_setCtx_self b.ctx
        { cmd with outstanding := 0, worst := worst, failing := failing }
      rw [State.completeBop_of_last hcmd st hrunning hlast, htake]
      constructor
      · intro hqueue hidle
        rw [State.toPosting_of_idle hended hq hr hactive hqueue hidle, State.setCtx_setCtx]
      · intro d hbusy
        rw [State.toPosting_of_busy hended hq hr hactive hbusy, State.setCtx_setCtx]
  · refine ⟨State.poolServes_of_empty, fun c rest cmd k kind hqueue hcmd hk hkind => ⟨fun hmore => ?_, fun hlast => ?_⟩⟩
    · rw [State.poolServes_of_more hcmd hk hkind hqueue hmore, State.createBop_eq hcmd hk hkind]
      rfl
    · rw [State.poolServes_of_last hcmd hk hkind hqueue hlast]
      rfl

end Sys2Proof.Machine
end

section
/-! PROOFS. The Ring Unit: deletes (R137, R138), options (R146, R147), tail writes (R129), the arbiter (R133, R134) and the end of a completion
write (R141, R142). -/

namespace Sys2Proof.Machine

/-! ### Searches -/

/-- In a list in order of a relation, the search finds the member that all members before it fail. -/
theorem find?_eq_some_of_first {α : Type} {R : α → α → Prop} {l : List α} (hl : l.Pairwise R) {p : α → Bool} {a : α}
    (ha : a ∈ l) (hp : p a = true) (hfirst : ∀ b, R b a → p b = false) : l.find? p = some a := by
  obtain ⟨before, after, rfl⟩ := List.append_of_mem ha
  refine List.find?_eq_some_iff_append.mpr ⟨hp, before, after, rfl, fun b hb => ?_⟩
  have hR : R b a := (List.pairwise_append.mp hl).2.2 b hb a List.mem_cons_self
  simp [hfirst b hR]

/-- The lowest number that passes. -/
theorem find?_finRange_eq_some {n : Nat} {p : Fin n → Bool} {i : Fin n} (hp : p i = true)
    (hlowest : ∀ j, j < i → p j = false) : (List.finRange n).find? p = some i :=
  find?_eq_some_of_first (List.sortedLT_finRange n).pairwise (List.mem_finRange i) hp hlowest

/-! ### DELETE SUBMISSION RING -/

theorem exec_deleteSubmissionRing (s : State) :
    exec .deleteSubmissionRing s = .next (s.arrive .deleteSr dispatchDeleteSubmissionRing State.settleHost) := by
  rfl

theorem dispatchDeleteSubmissionRing_of_conflict {s : State} {c : CtxId} {r : Record} {n : RingId}
    (hn : Rec.ringId (Rec.targetRing r) = n)
    (h : n = 0 ∨ s.sr n = none ∨ ∃ q u d, s.sr n = some q ∧ q.state = .draining u d) :
    dispatchDeleteSubmissionRing s c r = s.finish c .stateConflict 0 := by
  simp only [dispatchDeleteSubmissionRing, hn]
  rcases h with hzero | hunused | ⟨q, u, d, hq, hdraining⟩
  · rw [if_pos hzero]
  · simp only [hunused, ite_self]
  · simp only [hq, hdraining, ite_self]

theorem dispatchDeleteSubmissionRing_of_used {s : State} {c : CtxId} {r : Record} {n : RingId} {q : SubmissionRing}
    (hn : Rec.ringId (Rec.targetRing r) = n) (hzero : n ≠ 0) (hq : s.sr n = some q)
    (hstate : q.state = .active ∨ q.state = .faulted) :
    dispatchDeleteSubmissionRing s c r = (s.setSr n (some { q with state := .draining q.waiting c })).judgeDelete n := by
  simp only [dispatchDeleteSubmissionRing, hn]
  rw [if_neg hzero]
  rcases hstate with hstate | hstate <;> simp only [hq, hstate]

theorem State.judgeDelete_of_draining {s : State} {n : RingId} {q : SubmissionRing} {u : Nat} {d : CtxId}
    (hq : s.sr n = some q) (hstate : q.state = .draining u d) :
    s.judgeDelete n =
      if q.fetchInFlight = true ∨ s.srInFlight n = true then s
      else ((s.setSr n none).setOutcome d .ok u).joinPost d := by
  simp only [State.judgeDelete, hq, hstate, Bool.or_eq_true]

/-- Settles O27: the arrival leaves its own ring in flight as it was, so the delete is judged on what was in flight before. -/
theorem submissionRingIsDeleted : Obligations.SubmissionRingIsDeleted := by
  unfold Obligations.SubmissionRingIsDeleted
  rintro s a n haccepts hn
  rw [exec_deleteSubmissionRing, haccepts.arrive_eq]
  constructor
  · intro hconflict
    rw [dispatchDeleteSubmissionRing_of_conflict (s := s.takeArrival a) hn.symm hconflict]
  · intro q hzero hq hstate
    have hflight (x : Option SubmissionRing) : ((s.takeArrival a).setSr n x).srInFlight n = s.srInFlight n :=
      State.takeArrival_srInFlight haccepts.1 n
    rw [dispatchDeleteSubmissionRing_of_used (s := s.takeArrival a) hn.symm hzero hq hstate,
      State.judgeDelete_of_draining (State.sr_setSr_self _ _ _) rfl, hflight, State.setSr_setSr]
    constructor
    · intro hbusy
      rw [if_pos hbusy]
      rfl
    · intro hidle hfree
      rw [if_neg (by simp [hidle, hfree])]
      rfl

/-! ### SET RING OPTIONS -/

theorem exec_setRingOptions (p : Bool) (s : State) :
    exec (.setRingOptions p) s = .next (s.arrive .setRingOptions (dispatchSetRingOptions p) State.settleHost) := by
  rfl

section
variable {s : State} {c : CtxId} {r : Record} {n : RingId} (p : Bool) (hn : Rec.ringId (Rec.targetRing r) = n)
include hn

theorem dispatchSetRingOptions_sr_conflict (hkind : Rec.ringKind r = 0)
    (h : n = 0 ∨ ∀ q, s.sr n = some q → q.state ≠ .active) :
    dispatchSetRingOptions p s c r = s.finish c .stateConflict 0 := by
  simp only [dispatchSetRingOptions, hn]
  rw [if_pos hkind]
  cases hq : s.sr n with
  | none => rfl
  | some q => exact if_pos (h.imp_right fun hnot => hnot q hq)

theorem dispatchSetRingOptions_sr (hkind : Rec.ringKind r = 0) {q : SubmissionRing} (hzero : n ≠ 0) (hq : s.sr n = some q)
    (hactive : q.state = .active) :
    dispatchSetRingOptions p s c r = (s.setSr n (some { q with weight := Rec.weight r })).finish c .ok 0 := by
  simp only [dispatchSetRingOptions, hn, hq]
  rw [if_pos hkind, if_neg (by simp [hzero, hactive])]

theorem dispatchSetRingOptions_cr_conflict (hkind : Rec.ringKind r ≠ 0) (h : ∀ x, s.cr n = some x → x.state ≠ .active) :
    dispatchSetRingOptions p s c r = s.finish c .stateConflict 0 := by
  simp only [dispatchSetRingOptions, hn]
  rw [if_neg hkind]
  cases hx : s.cr n with
  | none => rfl
  | some x => exact if_pos (h x hx)

theorem dispatchSetRingOptions_cr (hkind : Rec.ringKind r ≠ 0) {x : CompletionRing} (hx : s.cr n = some x)
    (hactive : x.state = .active) :
    dispatchSetRingOptions p s c r = (s.setCrOptions n x r p).finish c .ok 0 := by
  simp only [dispatchSetRingOptions, hn, hx]
  rw [if_neg hkind, if_neg (by simp [hactive])]

end

theorem State.emit_rings (s : State) (v : VectorId) (p : Bool) : (s.emit v p).rings = s.rings := by
  unfold State.emit
  split <;> rfl

/-- An emitted message touches the outbound stream and the vectors, which no ring reads. -/
theorem State.setCr_emit (s : State) (v : VectorId) (p : Bool) (n : RingId) (x : Option CompletionRing) :
    (s.emit v p).setCr n x = (s.setCr n x).emit v p := by
  unfold State.emit
  split <;> rfl

/-- R147 item 2: the message that is due leaves nothing unsignalled, and with it no timer to start. -/
theorem State.setCrOptions_of_due {s : State} {n : RingId} {x : CompletionRing} {r : Record} {p : Bool}
    (hdue : (x.takeOptions r).messageDue = true) :
    s.setCrOptions n x r p =
      (s.setCr n (some { x.takeOptions r with unsignalled := 0, timer := none })).emit x.vector p := by
  have hsent : (s.setCr n (some (x.takeOptions r))).sendInterrupt n p =
      (s.setCr n (some { x.takeOptions r with unsignalled := 0, timer := none })).emit x.vector p := by
    rw [State.sendInterrupt_eq (State.cr_setCr_self _ _ _), State.setCr_setCr]
    rfl
  have hring : ((s.setCr n (some { x.takeOptions r with unsignalled := 0, timer := none })).emit x.vector p).cr n =
      some { x.takeOptions r with unsignalled := 0, timer := none } := by
    rw [State.cr, State.emit_rings]
    exact State.cr_setCr_self _ _ _
  simp only [State.setCrOptions, hdue, if_true, hsent, hring]
  rw [State.setCr_emit, State.setCr_setCr]
  simp [CompletionRing.judgeTimer]

theorem State.setCrOptions_of_not_due {s : State} {n : RingId} {x : CompletionRing} {r : Record} {p : Bool}
    (hdue : (x.takeOptions r).messageDue = false) :
    s.setCrOptions n x r p = s.setCr n (some (x.takeOptions r).judgeTimer) := by
  simp [State.setCrOptions, hdue]

theorem CompletionRing.messageDue_iff {r : CompletionRing} :
    r.messageDue = true ↔ r.interruptsOn = true ∧ 1 ≤ r.unsignalled ∧ r.coalesceCount ≤ r.unsignalled := by
  simp only [CompletionRing.messageDue, Bool.and_eq_true, decide_eq_true_eq, and_assoc]

/-- Settles O29: the options are taken, and what was unsignalled under them decides between the message and the timer. -/
theorem ringOptionsAreSet : Obligations.RingOptionsAreSet := by
  unfold Obligations.RingOptionsAreSet
  intro s a p n haccepts hn
  rw [exec_setRingOptions, haccepts.arrive_eq]
  refine ⟨fun hkind => ⟨fun hconflict => ?_, fun q hzero hq hactive => ?_⟩, fun hkind => ⟨fun hconflict => ?_, ?_⟩⟩
  · rw [dispatchSetRingOptions_sr_conflict (s := s.takeArrival a) p hn.symm hkind hconflict]
  · rw [dispatchSetRingOptions_sr (s := s.takeArrival a) p hn.symm hkind hzero hq hactive]
  · rw [dispatchSetRingOptions_cr_conflict (s := s.takeArrival a) p hn.symm hkind hconflict]
  · rintro r hr hactive _ _ _ _ _ rfl rfl rfl rfl rfl
    rw [dispatchSetRingOptions_cr (s := s.takeArrival a) p hn.symm hkind hr hactive]
    have hdue := CompletionRing.messageDue_iff (r := r.takeOptions a.record)
    constructor
    · intro h
      rw [State.setCrOptions_of_due (hdue.mpr h)]
      rfl
    · intro h
      rw [State.setCrOptions_of_not_due (Bool.eq_false_iff.mpr fun e => h (hdue.mp e))]
      rfl

/-! ### The tail register -/

theorem exec_srTailWrite {s : State} (h : s.host.linkUsable = true) (n : RingId) (v : BitVec 32) :
    exec (.srTailWrite n v) s = .next (s.writeSrTail n v.toNat) :=
  congrArg Host.Outcome.next (State.ifUsable_of_usable h _)

/-- Register `n` of the window from 0x100 on is the tail of submission ring `n` (Table 9.13). -/
theorem State.readRegister_srTail (s : State) (n : RingId) : s.readRegister (0x100 + 4 * n.val) 4 = s.srTailWord n := by
  have hn : n.val < 16 := n.isLt
  have hring : Fin.ofNat 16 ((0x100 + 4 * n.val - 0x100) / 4) = n := by
    apply Fin.ext
    simp only [Fin.ofNat]
    omega
  rw [State.readRegister, if_pos (by omega), State.readWord]
  repeat rw [if_neg (by omega)]
  rw [if_pos (by omega), hring]

theorem State.writeSrTail_of_not_active {s : State} {n : RingId} {v : Nat} {q : SubmissionRing} (h : s.sr n = some q)
    (hstate : q.state ≠ .active) : s.writeSrTail n v = s := by
  cases hq : q.state with
  | active => exact absurd hq hstate
  | draining u d => simp only [State.writeSrTail, h, hq]
  | faulted => simp only [State.writeSrTail, h, hq]

theorem State.writeSrTail_of_active {s : State} {n : RingId} {v : Nat} {q : SubmissionRing} (h : s.sr n = some q)
    (hstate : q.state = .active) :
    s.writeSrTail n v =
      if v < q.entries then (s.setSr n (some { q with tail := v })).fetchArbiter
      else (s.faultSr n .badIndex).settleHost := by
  simp only [State.writeSrTail, h, hstate]

/-- Settles O39: the ring's state decides, and for an ACTIVE one the value. -/
theorem tailWriteActsByState : Obligations.TailWriteActsByState := by
  unfold Obligations.TailWriteActsByState
  intro s n v husable
  rw [exec_srTailWrite husable, State.readRegister_srTail]
  constructor
  · intro hunused
    have hignored : s.writeSrTail n v.toNat = s := by simp only [State.writeSrTail, hunused]
    rw [hignored, State.srTailWord, hunused]
    exact ⟨rfl, rfl⟩
  · intro q hq
    refine ⟨by rw [State.srTailWord, hq], fun hstate => ?_, fun hactive hlt => ?_, fun hactive hge => ⟨?_, ?_⟩⟩
    · rw [State.writeSrTail_of_not_active hq hstate]
    · rw [State.writeSrTail_of_active hq hactive, if_pos hlt]
    · rw [State.writeSrTail_of_active hq hactive, if_neg (not_lt.mpr hge)]
    · rw [State.faultSr_sr hq, State.sr_setSr_self, SubmissionRing.faultedRing, if_pos hactive]

/-! ### The fetch arbiter -/

theorem State.fetchArbiter_of_busy {s : State} (h : s.rings.fetch ≠ none) : s.fetchArbiter = s := by
  unfold State.fetchArbiter
  split
  · rfl
  · next hnone => exact absurd hnone h

/-- R133 for an idle fetch engine. -/
theorem State.fetchArbiter_of_idle {s : State} (h : s.rings.fetch = none) :
    s.fetchArbiter =
      if s.eligible 0 then s.grant 0
      else if s.eligible s.rings.currentSr && State.fetchArbiter.turnLeft s then
        State.grant { s with rings := { s.rings with grantsUsed := s.rings.grantsUsed + 1 } } s.rings.currentSr
      else
        match (searchOrder s.rings.currentSr).find? s.eligible with
        | some n => State.grant { s with rings := { s.rings with currentSr := n, grantsUsed := 1 } } n
        | none => s := by
  unfold State.fetchArbiter
  simp only [h] <;> rfl

theorem State.turnLeft_iff {s : State} :
    State.fetchArbiter.turnLeft s = true ↔ ∃ q, s.sr s.rings.currentSr = some q ∧ s.rings.grantsUsed < q.weight := by
  unfold State.fetchArbiter.turnLeft
  cases s.sr s.rings.currentSr with
  | none => simp
  | some q => simp

/-- How far behind the current ring a ring stands in the search of R133 step 3. -/
def searchRank (current n : RingId) : Nat := if current < n then n.val else n.val + 16

theorem searchOrder_pairwise (current : RingId) :
    (searchOrder current).Pairwise fun a b => searchRank current a < searchRank current b := by
  revert current
  decide

theorem mem_searchOrder {current n : RingId} (h : n ≠ 0) : n ∈ searchOrder current := by
  revert h n current
  decide

/-- The search finds the eligible I/O ring of the lowest rank. -/
theorem State.find?_searchOrder {s : State} {current n : RingId} (hzero : s.eligible 0 = false) (hn : s.eligible n = true)
    (hfirst : ∀ m, s.eligible m = true → searchRank current n ≤ searchRank current m) :
    (searchOrder current).find? s.eligible = some n := by
  have hne : n ≠ 0 := by
    rintro rfl
    rw [hzero] at hn
    cases hn
  refine find?_eq_some_of_first (searchOrder_pairwise current) (mem_searchOrder hne) hn fun m hm => ?_
  exact Bool.eq_false_iff.mpr fun he => absurd (hfirst m he) (not_le.mpr hm)

theorem State.lowestFreeContext_eq {s : State} {c : CtxId} (hc : s.ctx c = .free) (hlowest : ∀ d, d < c → s.ctx d ≠ .free) :
    s.lowestFreeContext = some c :=
  find?_finRange_eq_some (by simp [hc]) fun d hd => by simpa using hlowest d hd

/-- Settles O45: SR0, then the current ring, then the search, each where those before it do not take the grant. -/
theorem arbiterGrantsInTurn : Obligations.ArbiterGrantsInTurn := by
  unfold Obligations.ArbiterGrantsInTurn
  intro s
  refine ⟨State.fetchArbiter_of_busy, fun hnone => ?_, fun hidle hzero => ?_, fun q hidle hzero hcurrent hq hturn => ?_,
    fun n hidle hzero hturn hn hfirst => ?_, fun n q c hq hc hlowest => ?_⟩
  · by_cases hidle : s.rings.fetch = none
    · have hsearch : (searchOrder s.rings.currentSr).find? s.eligible = none :=
        List.find?_eq_none.mpr fun m _ => by simp [hnone m]
      rw [State.fetchArbiter_of_idle hidle, if_neg (by simp [hnone]), if_neg (by simp [hnone]), hsearch]
    · exact State.fetchArbiter_of_busy hidle
  · rw [State.fetchArbiter_of_idle hidle, if_pos hzero]
  · have hleft : State.fetchArbiter.turnLeft s = true := State.turnLeft_iff.mpr ⟨q, hq, hturn⟩
    rw [State.fetchArbiter_of_idle hidle, if_neg (by simp [hzero]), if_pos (by simp [hcurrent, hleft])]
  · have hpast : ¬(s.eligible s.rings.currentSr && State.fetchArbiter.turnLeft s) = true := by
      rw [Bool.and_eq_true, State.turnLeft_iff]
      rintro ⟨hcurrent, q, hq, hlt⟩
      exact absurd hlt (not_lt.mpr (hturn q hcurrent hq))
    rw [State.fetchArbiter_of_idle hidle, if_neg (by simp [hzero]), if_neg hpast,
      State.find?_searchOrder hzero hn hfirst]
  · simp only [State.grant, hq, State.lowestFreeContext_eq hc hlowest]
    rfl

/-! ### The end of a completion write -/

theorem exec_completionWriteSucceeds (n : RingId) (p : Bool) (s : State) :
    exec (.completionWriteSucceeds n p) s = .next (s.postSucceeds n p) := by
  rfl

theorem exec_completionWriteFails (n : RingId) (s : State) : exec (.completionWriteFails n) s = .next (s.postFails n) := by
  rfl

/-- R141 steps 1 to 3, field by field. -/
theorem CompletionRing.posted_eq (r : CompletionRing) :
    r.posted = { r with
      tail := if r.tail + 1 < r.entries then r.tail + 1 else 0,
      phase := if r.tail + 1 < r.entries then r.phase else !r.phase,
      reserved := r.reserved - 1, writeInFlight := none,
      unsignalled := if r.interruptsOn then r.unsignalled + 1 else r.unsignalled,
      timer := if r.interruptsOn = true ∧ r.unsignalled = 0 ∧ 0 < r.coalesceTime then some r.coalesceTime
        else r.timer } := by
  unfold CompletionRing.posted CompletionRing.countPost CompletionRing.advance
  by_cases hwrap : r.tail + 1 < r.entries <;> cases hon : r.interruptsOn <;> simp [hwrap]

theorem CompletionRing.posted_messageDue_iff {r : CompletionRing} :
    r.posted.messageDue = true ↔
      r.interruptsOn = true ∧ r.coalesceCount ≤ if r.interruptsOn then r.unsignalled + 1 else r.unsignalled := by
  rw [CompletionRing.messageDue_iff, CompletionRing.posted_eq]
  cases r.interruptsOn <;> simp

section
variable {s : State} {n : RingId} {r : CompletionRing} {c : CtxId} (hr : s.cr n = some r)
  (hflight : r.writeInFlight = some c)
include hr hflight

theorem State.postSucceeds_of_due (hactive : r.state = .active) (p : Bool) (hdue : r.posted.messageDue = true) :
    s.postSucceeds n p = ((((s.setCr n (some { r.posted with unsignalled := 0, timer := none })).emit r.posted.vector
      p).issueRecord n).freeContext c).settleHost := by
  simp only [State.postSucceeds, hr, hflight, hactive, hdue, if_true]
  rw [State.sendInterrupt_eq (State.cr_setCr_self _ _ _), State.setCr_setCr]

theorem State.postSucceeds_of_not_due (hactive : r.state = .active) (p : Bool) (hdue : r.posted.messageDue = false) :
    s.postSucceeds n p = (((s.setCr n (some r.posted)).issueRecord n).freeContext c).settleHost := by
  simp [State.postSucceeds, hr, hflight, hactive, hdue]

theorem State.postSucceeds_of_faulted (hfaulted : r.state = .faulted) (p : Bool) :
    s.postSucceeds n p = ((s.setCr n (some r.unposted)).freeContext c).settleHost := by
  simp only [State.postSucceeds, hr, hflight, hfaulted]

theorem State.postFails_of_active (hactive : r.state = .active) :
    s.postFails n =
      ((((s.setCr n (some r.unposted)).setCtx c .free).faultCr n .postError).judgeDelete (s.srOf c)).settleHost := by
  simp only [State.postFails, hr, hflight, hactive]

theorem State.postFails_of_faulted (hfaulted : r.state = .faulted) :
    s.postFails n = ((((s.setCr n (some r.unposted)).setCtx c .free).reportFault (.ring .cr n .postError)).judgeDelete
      (s.srOf c)).settleHost := by
  simp only [State.postFails, hr, hflight, hfaulted]

end

/-- Settles O46: the ring's state decides what the end does to the ring, and the ring as the post leaves it whether a message is due. -/
theorem completionWriteEnds : Obligations.CompletionWriteEnds := by
  unfold Obligations.CompletionWriteEnds
  intro s n r c p hr hflight
  rw [exec_completionWriteSucceeds, exec_completionWriteFails]
  refine ⟨?_, fun hactive => ?_, fun hfaulted => ⟨?_, ?_⟩⟩
  · rintro hactive _ _ _ _ rfl rfl rfl rfl
    rw [← CompletionRing.posted_messageDue_iff]
    constructor
    · intro hdue
      rw [State.postSucceeds_of_due hr hflight hactive p hdue, CompletionRing.posted_eq]
    · intro hdue
      rw [State.postSucceeds_of_not_due hr hflight hactive p (Bool.eq_false_iff.mpr hdue), CompletionRing.posted_eq]
  · rw [State.postFails_of_active hr hflight hactive]
    rfl
  · rw [State.postSucceeds_of_faulted hr hflight hfaulted]
    rfl
  · rw [State.postFails_of_faulted hr hflight hfaulted]
    rfl

end Sys2Proof.Machine
end

section
/-! PROOFS. A range command splits (R112, R114, R115): what it creates, and what that leaves of the state. -/

namespace Sys2Proof.Machine

/-! ### The rows of range commands and what they passed at intake -/

theorem exec_row_of_range {k : CommandKind} {b : BopKind} (h : k.bopKind = some b) (p : Bool) (s : State) :
    exec (k.row p) s = .next (s.arriveRange k) := by
  cases k <;> cases h <;> rfl

theorem State.Accepts.fieldsValid {s : State} {k : CommandKind} {a : Arrival} (h : s.Accepts k a) :
    fieldsValid k a.record = true := by
  obtain ⟨_, _, hstatus⟩ := h
  by_contra hinvalid
  rw [State.intakeStatus_of_fieldsInvalid (Bool.eq_false_iff.mpr hinvalid)] at hstatus
  cases hstatus

/-- A range command names at least one block (R108). -/
theorem blockCount_pos_of_fieldsValid {k : CommandKind} {b : BopKind} {r : Record} (hk : k.bopKind = some b)
    (h : fieldsValid k r = true) : 0 < Rec.blockCount r := by
  have hcount : blockCountValid r = true := by
    cases k <;> cases hk <;> simp only [Machine.fieldsValid, rangeNoBufferValid, Bool.and_eq_true] at h <;> tauto
  simp only [blockCountValid, Bool.and_eq_true, decide_eq_true_eq] at hcount
  exact hcount.1

/-! ### The pool -/

theorem State.bopsInUse_eq_sum (s : State) :
    s.bopsInUse = ((List.finRange 128).map fun c => (s.ctx c).outstanding).sum := by
  rw [State.bopsInUse, State.contexts_toList, List.map_map]
  rfl

/-- The pool counts the outstanding block operations of every context, so only those matter. -/
theorem State.freeBops_congr {s t : State} (h : ∀ c, (t.ctx c).outstanding = (s.ctx c).outstanding) :
    t.freeBops = s.freeBops := by
  simp only [State.freeBops, State.bopsInUse_eq_sum, h]

/-! ### Creating block operations -/

theorem State.setCtx_of_command {s : State} {c : CtxId} {cmd : Command} (h : s.command c = some cmd) :
    s.commands.contexts.set c (.holding cmd) = s.commands.contexts := by
  have hget : s.commands.contexts[c.val] = .holding cmd := command_eq_some.mp h
  rw [← hget]
  exact Vector.set_getElem_self c.isLt

/-- The state in which the context has created `n` more block operations, which await lookup in ascending offset. -/
def State.withCreated (s : State) (c : CtxId) (cmd : Command) (kind : BopKind) (n : Nat) : State :=
  { s with commands := { s.commands with
    contexts := s.commands.contexts.set c (.holding { cmd with
      created := cmd.created + n, outstanding := cmd.outstanding + n }),
    awaitingLookup := s.commands.awaitingLookup ++ (List.range n).map fun i => cmd.bop c kind (cmd.created + i) } }

theorem State.withCreated_command (s : State) (c : CtxId) (cmd : Command) (kind : BopKind) (n : Nat) :
    (s.withCreated c cmd kind n).command c =
      some { cmd with created := cmd.created + n, outstanding := cmd.outstanding + n } := by
  simp [State.withCreated, State.command, State.ctx]

theorem createBops_eq {c : CtxId} {k : CommandKind} {kind : BopKind} (hkind : k.bopKind = some kind) (n : Nat) {s : State}
    {cmd : Command} (hcmd : s.command c = some cmd) (hk : commandOf cmd.sr cmd.record = some k) :
    createBops c n s = s.withCreated c cmd kind n := by
  induction n generalizing s cmd with
  | zero =>
    have hsame : s.commands.contexts.set c (.holding { cmd with created := cmd.created + 0, outstanding := cmd.outstanding + 0 }) =
        s.commands.contexts := State.setCtx_of_command hcmd
    rw [State.withCreated, hsame]
    simp [createBops]
  | succ n ih =>
    have hnext := State.createBop_command hcmd hk hkind
    have hoffsets : (List.range (n + 1)).map (fun i => cmd.bop c kind (cmd.created + i)) =
        cmd.bop c kind cmd.created :: (List.range n).map fun i => cmd.bop c kind (cmd.created + 1 + i) := by
      simp [List.range_succ_eq_map, Function.comp_def, Nat.add_comm, Nat.add_left_comm]
    rw [createBops, ih hnext hk, State.createBop_eq hcmd hk hkind]
    simp only [State.withCreated, hoffsets, Vector.set_set, List.append_assoc, List.singleton_append, Nat.add_assoc,
      Nat.add_comm 1 n]
    rfl

/-! ### Splitting begins -/

section
variable {s : State} {c : CtxId} {cmd : Command} {k : CommandKind} {kind : BopKind} (hcmd : s.command c = some cmd)
  (hk : commandOf cmd.sr cmd.record = some k) (hkind : k.bopKind = some kind)
include hcmd

theorem State.beginSplitting_of_waiting (hqueue : s.commands.splitQueue ≠ []) :
    s.beginSplitting c = { s with commands := { s.commands with splitQueue := s.commands.splitQueue ++ [c] } } := by
  simp [State.beginSplitting, hcmd, hqueue]

include hk hkind

theorem State.beginSplitting_of_room (hqueue : s.commands.splitQueue = []) (hroom : Rec.blockCount cmd.record ≤ s.freeBops)
    (hpos : 0 < Rec.blockCount cmd.record) :
    s.beginSplitting c = s.withCreated c { cmd with state := .running } kind (Rec.blockCount cmd.record) := by
  have hcreated := createBops_eq hkind (Rec.blockCount cmd.record) hcmd hk
  simp only [State.beginSplitting, hcmd, hqueue, List.isEmpty_nil, min_eq_left hroom, if_true, State.endSplitting, hcreated,
    State.withCreated_command]
  rw [if_pos (by omega)]
  simp [State.setCtx, State.withCreated, Command.bop]

theorem State.beginSplitting_of_no_room (hqueue : s.commands.splitQueue = [])
    (hroom : s.freeBops < Rec.blockCount cmd.record) :
    s.beginSplitting c = { s.withCreated c cmd kind s.freeBops with
      commands := { (s.withCreated c cmd kind s.freeBops).commands with splitQueue := [c] } } := by
  have hcreated := createBops_eq hkind s.freeBops hcmd hk
  simp only [State.beginSplitting, hcmd, hqueue, List.isEmpty_nil, if_true, min_eq_right (le_of_lt hroom), hcreated]
  rw [if_neg (by omega)]

end

/-! ### The arrival of a range command -/

/-- The command that has arrived, as R112 leaves it for splitting. -/
def splittingCommand (a : Arrival) : Command :=
  { arrivedCommand a.sr a.reserved a.record with state := .splitting }

/-- The state in which splitting begins. -/
def State.toSplit (s : State) (a : Arrival) : State := (s.takeArrival a).setCtx a.ctx (.holding (splittingCommand a))

theorem State.Accepts.exec_range {s : State} {k : CommandKind} {b : BopKind} {a : Arrival} (h : s.Accepts k a)
    (hk : k.bopKind = some b) (p : Bool) :
    exec (k.row p) s = .next ((s.toSplit a).beginSplitting a.ctx).settleHost := by
  rw [exec_row_of_range hk, State.arriveRange, h.arrive_eq]
  simp only [dispatchRange, State.takeArrival_command]
  rfl

section
variable (s : State) (a : Arrival)

theorem State.toSplit_command : (s.toSplit a).command a.ctx = some (splittingCommand a) := State.command_setCtx_self _ _ _

theorem State.toSplit_ctx {d : CtxId} (hd : d ≠ a.ctx) : (s.toSplit a).ctx d = s.ctx d := by
  rw [State.toSplit, State.ctx_setCtx_ne _ _ _ _ hd.symm, State.takeArrival_ctx _ _ hd]

/-- The arrival itself uses nothing of the pool. -/
theorem State.toSplit_freeBops {s : State} {a : Arrival} (h : s.arrival = some a) : (s.toSplit a).freeBops = s.freeBops := by
  refine State.freeBops_congr fun d => ?_
  by_cases hd : d = a.ctx
  · rw [hd, command_eq_some.mp (s.toSplit_command a), State.arrival_ctx h]
    rfl
  · rw [State.toSplit_ctx s a hd]

theorem State.withCreated_ctx (c : CtxId) (cmd : Command) (kind : BopKind) (n : Nat) {d : CtxId} (hd : d ≠ c) :
    (s.withCreated c cmd kind n).ctx d = s.ctx d :=
  State.ctx_setCtx_ne s c d _ hd.symm

end

/-- Settles O23: in each case the state after splitting differs from the one in which it began by the created block operations, their command
and the split queue alone. -/
theorem rangeCommandSplits : Obligations.RangeCommandSplits := by
  unfold Obligations.RangeCommandSplits
  intro s k b p a haccepts hk
  have hcommand := s.toSplit_command a
  have hkind : commandOf (splittingCommand a).sr (splittingCommand a).record = some k := haccepts.2.1
  have hpos : 0 < Rec.blockCount a.record := blockCount_pos_of_fieldsValid hk haccepts.fieldsValid
  have hfree := State.toSplit_freeBops haccepts.1
  rw [haccepts.exec_range hk p]
  refine ⟨fun hqueue hroom => ?_, fun hqueue hroom => ?_, fun hqueue => ?_⟩
  · rw [State.beginSplitting_of_room hcommand hkind hk hqueue (hfree ▸ hroom) hpos]
    refine ⟨_, rfl, ?_, ?_, hqueue, fun d hd => ?_, ⟨rfl, rfl, rfl, rfl⟩, rfl, rfl, rfl, rfl⟩
    · rw [State.withCreated_command]
      simp [splittingCommand, arrivedCommand]
    · simp [State.withCreated, State.toSplit, splittingCommand, arrivedCommand, Command.bop, State.takeArrival, State.setCtx]
    · rw [State.withCreated_ctx _ _ _ _ _ hd, State.toSplit_ctx s a hd]
  · rw [State.beginSplitting_of_no_room hcommand hkind hk hqueue (hfree ▸ hroom), hfree]
    refine ⟨_, rfl, ?_, ?_, rfl, fun d hd => ?_, ⟨rfl, rfl, rfl, rfl⟩, rfl, rfl, rfl, rfl⟩
    · refine (State.withCreated_command (s.toSplit a) a.ctx (splittingCommand a) b s.freeBops).trans ?_
      simp [splittingCommand, arrivedCommand]
    · simp [State.withCreated, State.toSplit, splittingCommand, arrivedCommand, Command.bop, State.takeArrival, State.setCtx]
    · exact (State.withCreated_ctx (s.toSplit a) a.ctx (splittingCommand a) b s.freeBops hd).trans (State.toSplit_ctx s a hd)
  · rw [State.beginSplitting_of_waiting hcommand hqueue]
    exact ⟨_, rfl, hcommand, rfl, rfl, fun d hd => State.toSplit_ctx s a hd, ⟨rfl, rfl, rfl, rfl⟩, rfl, rfl, rfl, rfl⟩

end Sys2Proof.Machine
end

section
/-! PROOFS. The flush-all queue (R72 to R78): its head is judged for activation, and the active one ends. -/

namespace Sys2Proof.Machine

/-! ### Activation -/

theorem activateLoop_of_blocked {s : State} (h : s.writeBack.activeFlushAll.isSome = true ∨
    s.writeBack.walk.isSome = true ∨ s.commands.flushAllQueue = []) (n : Nat) : activateLoop n s = s := by
  cases n with
  | zero => rfl
  | succ n =>
    rw [activateLoop, if_pos]
    rcases h with h | h | h <;> simp [h]

theorem State.judgeActivation_of_blocked {s : State} (h : s.writeBack.activeFlushAll.isSome = true ∨
    s.writeBack.walk.isSome = true ∨ s.commands.flushAllQueue = []) : s.judgeActivation = s :=
  activateLoop_of_blocked h _

/-- R73: the epoch turns over, and the head of the queue is active with no failures. -/
def State.activated (s : State) : State :=
  { s with writeBack := { s.writeBack with
    currentEpoch := s.writeBack.currentEpoch.other,
    activeFlushAll := some { oldEpoch := s.writeBack.currentEpoch, failures := 0, worst := none } } }

theorem State.activated_unclean (s : State) (e : Epoch) : s.activated.unclean e = s.unclean e := by
  cases e <;> rfl

theorem State.endFlushAll_of_head {s : State} {c : CtxId} {rest : List CtxId} (hqueue : s.commands.flushAllQueue = c :: rest)
    (st : Status) :
    s.endFlushAll st = State.finish { s with
      writeBack := { s.writeBack with activeFlushAll := none },
      commands := { s.commands with flushAllQueue := rest } } c st 0 := by
  simp only [State.endFlushAll, hqueue]

theorem State.endFlushAll_flushAllQueue {s : State} {c : CtxId} {rest : List CtxId}
    (hqueue : s.commands.flushAllQueue = c :: rest) (st : Status) : (s.endFlushAll st).commands.flushAllQueue = rest := by
  rw [State.endFlushAll_of_head hqueue]
  exact (State.SameQueues.finish _ c st 0).1

section
variable {s : State} {c : CtxId} {rest : List CtxId} (hactive : s.writeBack.activeFlushAll = none)
  (hwalk : s.writeBack.walk = none) (hqueue : s.commands.flushAllQueue = c :: rest)
include hactive hwalk hqueue

theorem State.judgeActivation_of_free :
    s.judgeActivation =
      if s.activated.unclean s.writeBack.currentEpoch = 0 then (s.activated.endFlushAll .ok).judgeActivation
      else s.activated := by
  have hrest : (s.activated.endFlushAll .ok).commands.flushAllQueue = rest :=
    State.endFlushAll_flushAllQueue (s := s.activated) hqueue .ok
  have hfree : ¬(s.writeBack.activeFlushAll.isSome || s.writeBack.walk.isSome || s.commands.flushAllQueue.isEmpty) = true := by
    simp [hactive, hwalk, hqueue]
  have hlength : s.commands.flushAllQueue.length = rest.length + 1 := by rw [hqueue, List.length_cons]
  rw [State.judgeActivation, hlength, activateLoop, if_neg hfree, State.judgeActivation, hrest]
  rfl

theorem State.judgeActivation_of_unclean (hunclean : s.unclean s.writeBack.currentEpoch ≠ 0) :
    s.judgeActivation = s.activated := by
  rw [State.judgeActivation_of_free hactive hwalk hqueue, if_neg (by rwa [State.activated_unclean])]

theorem State.judgeActivation_of_all_clean (hclean : s.unclean s.writeBack.currentEpoch = 0) :
    s.judgeActivation = (State.finish { s with
      writeBack := { s.writeBack with currentEpoch := s.writeBack.currentEpoch.other, activeFlushAll := none },
      commands := { s.commands with flushAllQueue := rest } } c .ok 0).judgeActivation := by
  rw [State.judgeActivation_of_free hactive hwalk hqueue, if_pos (by rwa [State.activated_unclean]),
    State.endFlushAll_of_head (s := s.activated) hqueue]
  rfl

end

/-! ### The ends of the active flush-all -/

section
variable {s : State} {f : FlushAllRecord} (hactive : s.writeBack.activeFlushAll = some f)
include hactive

theorem State.judgeFlushAll_of_unclean (h : s.unclean f.oldEpoch ≠ 0) : s.judgeFlushAll = s := by
  simp only [State.judgeFlushAll, hactive]
  rw [if_neg h]

theorem State.judgeFlushAll_of_all_clean (h : s.unclean f.oldEpoch = 0) :
    s.judgeFlushAll = (s.endFlushAll f.status).judgeActivation := by
  simp only [State.judgeFlushAll, hactive]
  rw [if_pos h]

/-- R78: the end posts, which leaves the Write-Back Unit but for the record alone, and the walk starts. -/
theorem State.cutFlushAll_eq {c : CtxId} {rest : List CtxId} (hqueue : s.commands.flushAllQueue = c :: rest) (st : Status) :
    s.cutFlushAll st =
      { State.finish { s with
          writeBack := { s.writeBack with activeFlushAll := none },
          commands := { s.commands with flushAllQueue := rest } } c st 0 with
        writeBack := { s.writeBack with activeFlushAll := none, walk := some { nextSet := 0, epoch := f.oldEpoch } } } := by
  have hrest := (State.SameCore.finish { s with
    writeBack := { s.writeBack with activeFlushAll := none },
    commands := { s.commands with flushAllQueue := rest } } c st 0).writeBack
  simp only [State.cutFlushAll, hactive, State.endFlushAll_of_head hqueue, hrest]

theorem State.flushAllFailure_eq (st : Status) :
    s.flushAllFailure st = { s with writeBack := { s.writeBack with activeFlushAll := some { f with
      failures := f.failures + 1,
      worst := some (match f.worst with
        | none => st
        | some w => if w.code < st.code then st else w) } } } := by
  simp only [State.flushAllFailure, hactive, Status.worse]
  cases f.worst <;> rfl

end

theorem exec_flushAll (s : State) : exec .flushAll s = .next (s.arrive .flushAll dispatchFlushAll State.settle) := by
  rfl

/-- The state in which an accepted FLUSH ALL has joined the queue (R72). -/
def State.flushAllQueued (s : State) (a : Arrival) : State :=
  { s.takeArrival a with commands := { (s.takeArrival a).commands with
    flushAllQueue := s.commands.flushAllQueue ++ [a.ctx] } }

theorem State.Accepts.exec_flushAll {s : State} {a : Arrival} (h : s.Accepts .flushAll a) :
    exec .flushAll s = .next (s.flushAllQueued a).judgeActivation.settle := by
  rw [Machine.exec_flushAll, h.arrive_eq]
  rfl

/-- The clauses of O24 on the arrival of FLUSH ALL. -/
theorem flushAll_arrives {s : State} {a : Arrival} (haccepts : s.Accepts .flushAll a) :
    ((s.writeBack.activeFlushAll.isSome = true ∨ s.writeBack.walk.isSome = true) →
      ∃ u : State, exec .flushAll s = .next u.settle ∧ u.commands.flushAllQueue = s.commands.flushAllQueue ++ [a.ctx] ∧
        u.command a.ctx = some (arrivedCommand a.sr a.reserved a.record) ∧ (∀ d, d ≠ a.ctx → u.ctx d = s.ctx d) ∧
        s.SameCache u ∧ u.rings = { s.rings with intake := a.rest } ∧ u.host = s.host) ∧
    (s.commands.flushAllQueue = [] → s.writeBack.activeFlushAll = none → s.writeBack.walk = none →
      0 < s.unclean s.writeBack.currentEpoch →
      ∃ u : State, exec .flushAll s = .next u.settle ∧ u.commands.flushAllQueue = [a.ctx] ∧
        u.writeBack = { s.writeBack with
          currentEpoch := s.writeBack.currentEpoch.other,
          activeFlushAll := some { oldEpoch := s.writeBack.currentEpoch, failures := 0, worst := none } } ∧
        u.command a.ctx = some (arrivedCommand a.sr a.reserved a.record) ∧ (∀ d, d ≠ a.ctx → u.ctx d = s.ctx d) ∧
        u.directory = s.directory ∧ u.media = s.media ∧ u.frames = s.frames ∧
        u.rings = { s.rings with intake := a.rest } ∧ u.host = s.host) ∧
    (s.commands.flushAllQueue = [] → s.writeBack.activeFlushAll = none → s.writeBack.walk = none →
      s.unclean s.writeBack.currentEpoch = 0 →
      exec .flushAll s = .next (State.settle
        (State.finish { s.takeArrival a with
          writeBack := { s.writeBack with currentEpoch := s.writeBack.currentEpoch.other } } a.ctx .ok 0))) := by
  have hcommand : (s.flushAllQueued a).command a.ctx = some (arrivedCommand a.sr a.reserved a.record) :=
    s.takeArrival_command a
  have hctx : ∀ d, d ≠ a.ctx → (s.flushAllQueued a).ctx d = s.ctx d := fun d hd => s.takeArrival_ctx a hd
  rw [haccepts.exec_flushAll]
  refine ⟨fun hblocked => ?_, fun hqueue hactive hwalk hunclean => ?_, fun hqueue hactive hwalk hclean => ?_⟩
  · rw [State.judgeActivation_of_blocked (s := s.flushAllQueued a) (hblocked.imp_right .inl)]
    exact ⟨_, rfl, rfl, hcommand, hctx, ⟨rfl, rfl, rfl, rfl⟩, rfl, rfl⟩
  · have halone : (s.flushAllQueued a).commands.flushAllQueue = [a.ctx] := congrArg (· ++ [a.ctx]) hqueue
    rw [State.judgeActivation_of_unclean (s := s.flushAllQueued a) hactive hwalk halone (Nat.pos_iff_ne_zero.mp hunclean)]
    exact ⟨_, rfl, halone, rfl, hcommand, hctx, rfl, rfl, rfl, rfl, rfl⟩
  · have halone : (s.flushAllQueued a).commands.flushAllQueue = [a.ctx] := congrArg (· ++ [a.ctx]) hqueue
    have hsame : ({ s.flushAllQueued a with
        writeBack := { s.writeBack with currentEpoch := s.writeBack.currentEpoch.other, activeFlushAll := none },
        commands := { (s.flushAllQueued a).commands with flushAllQueue := [] } } : State) =
        { s.takeArrival a with writeBack := { s.writeBack with currentEpoch := s.writeBack.currentEpoch.other } } := by
      rw [← hactive, ← hqueue]
      rfl
    have hdone := State.judgeActivation_of_all_clean (s := s.flushAllQueued a) hactive hwalk halone hclean
    refine congrArg (fun u => Host.Outcome.next (State.settle u)) (hdone.trans ?_)
    rw [State.judgeActivation_of_blocked (.inr (.inr (State.SameQueues.finish _ _ _ _).1))]
    exact congrArg (fun u : State => u.finish a.ctx .ok 0) hsame

/-- Settles O24: the arrival, the judgement of the head, and the two ends of the active flush-all. -/
theorem flushAllArrives : Obligations.FlushAllArrives := by
  unfold Obligations.FlushAllArrives
  refine ⟨fun s a haccepts => flushAll_arrives haccepts, fun s => ⟨State.judgeActivation_of_blocked, ?_⟩, fun s hnone => ?_,
    fun s f hactive => ⟨State.judgeFlushAll_of_unclean hactive, fun c rest hqueue => ⟨fun hclean => ?_, fun st => ?_⟩, ?_⟩⟩
  · rintro c rest e hactive hwalk hqueue rfl
    exact ⟨State.judgeActivation_of_unclean hactive hwalk hqueue, State.judgeActivation_of_all_clean hactive hwalk hqueue⟩
  · simp only [State.judgeFlushAll, State.flushAllFailure, State.cutFlushAll, hnone]
    exact ⟨trivial, fun st => ⟨trivial, trivial⟩⟩
  · rw [State.judgeFlushAll_of_all_clean hactive hclean, State.endFlushAll_of_head hqueue]
    rfl
  · exact State.cutFlushAll_eq hactive hqueue st
  · rintro st worst rfl
    exact State.flushAllFailure_eq hactive st

end Sys2Proof.Machine
end

section
/-! PROOFS. Fault reports and notices (R150, R152, R153), and the release of fenced sets (R162, R163). -/

namespace Sys2Proof.Machine

/-! ### Reports and the unreported classes -/

/-- R150, field by field. -/
theorem State.reportFault_eq (s : State) (r : FaultRecord) :
    s.reportFault r = s.setEntry r.faultClass
      { count := min (s.faults.entries[r.faultClass].count + 1) 65535,
        first := some (s.faults.entries[r.faultClass].first.getD r), unreported := true } := by
  unfold State.reportFault
  dsimp only
  cases s.faults.entries[r.faultClass].first <;> rfl

theorem State.unreportedClass_eq_none {s : State} (h : ∀ k : Fin 5, s.faults.entries[k].unreported = false) :
    s.unreportedClass = none :=
  List.find?_eq_none.mpr fun k _ => by simpa using h k

theorem State.unreportedClass_eq_some {s : State} {k : Fin 5} (hk : s.faults.entries[k].unreported = true)
    (hlowest : ∀ j : Fin 5, j < k → s.faults.entries[j].unreported = false) : s.unreportedClass = some k :=
  find?_finRange_eq_some hk hlowest

/-! ### Delivery -/

/-- The contents of a notice of the class (R153). -/
def State.noticeOf (s : State) (k : Fin 5) : Notice :=
  { faultClass := k, count := s.faults.entries[k].count, first := s.faults.entries[k].first }

theorem State.deliver_eq {s : State} {c : CtxId} {cmd : Command} (h : s.command c = some cmd) (k : Fin 5) :
    s.deliver c k =
      (({ s.setEntry k CaptureEntry.reset with commands := { s.commands with
            noticeRequests := s.commands.noticeRequests.filter (· != c) } } : State).setCtx c (.holding
        { cmd with state := .executing, notice := some (s.noticeOf k) })).hostWrite
          (.notice (Rec.bufferAddress cmd.record) (noticeRecord (s.noticeOf k))) := by
  have hcmd : ({ s.setEntry k CaptureEntry.reset with commands := { s.commands with
      noticeRequests := s.commands.noticeRequests.filter (· != c) } } : State).command c = some cmd := h
  simp only [State.deliver, State.setEntry_commands, hcmd]
  rfl

theorem State.deliver_noticeRequests {s : State} {c : CtxId} {cmd : Command} (h : s.command c = some cmd) (k : Fin 5) :
    (s.deliver c k).commands.noticeRequests = s.commands.noticeRequests.filter (· != c) := by
  rw [State.deliver_eq h]
  rfl

theorem deliverLoop_of_reported {s : State} (h : s.unreportedClass = none) (cs : List CtxId) : deliverLoop cs s = s := by
  cases cs with
  | nil => rfl
  | cons c cs => simp only [deliverLoop, h]

theorem filter_ne_of_not_mem {α : Type} [DecidableEq α] {x : α} {l : List α} (h : x ∉ l) : (x :: l).filter (· != x) = l := by
  rw [List.filter_cons_of_neg (by simp), List.filter_eq_self]
  rintro y hy
  simpa using fun e : y = x => h (e ▸ hy)

/-- The oldest request is delivered, and the rest of the list is judged on the state this leaves. -/
theorem State.deliverNotices_of_head {s : State} {c : CtxId} {cs : List CtxId} {cmd : Command} {k : Fin 5}
    (hlist : s.commands.noticeRequests = c :: cs) (honce : c ∉ cs) (hcmd : s.command c = some cmd)
    (hk : s.unreportedClass = some k) : s.deliverNotices = (s.deliver c k).deliverNotices := by
  have hrest : (s.deliver c k).commands.noticeRequests = cs := by
    rw [State.deliver_noticeRequests hcmd, hlist, filter_ne_of_not_mem honce]
  rw [State.deliverNotices, State.deliverNotices, hrest, hlist]
  simp only [deliverLoop, hk]

theorem exec_awaitNotice (s : State) :
    exec .awaitNotice s = .next (s.arrive .awaitNotice dispatchAwaitNotice State.settleHost) := by
  rfl

/-- Settles O33: a delivery is one step, at an arrival and at the end of an event alike. -/
theorem noticeIsAwaited : Obligations.NoticeIsAwaited := by
  unfold Obligations.NoticeIsAwaited
  refine ⟨fun s a haccepts => ?_, ?_, fun s => ⟨?_, ?_⟩⟩
  · rw [exec_awaitNotice, haccepts.arrive_eq, dispatchAwaitNotice]
    constructor
    · intro hreported
      rw [State.unreportedClass_eq_none (s := s.takeArrival a) hreported]
      rfl
    · intro k hk hlowest
      rw [State.unreportedClass_eq_some (s := s.takeArrival a) hk hlowest]
      dsimp only
      rw [State.deliver_eq (s.takeArrival_command a)]
      rfl
  · rintro s r k e hk rfl
    obtain rfl : k = r.faultClass := hk.trans (by cases r <;> rfl)
    rw [State.reportFault_eq]
    rfl
  · rintro (hempty | hreported)
    · rw [State.deliverNotices, hempty]
      rfl
    · exact deliverLoop_of_reported (State.unreportedClass_eq_none hreported) _
  · rintro c cs cmd k n hlist honce hcmd hk hlowest rfl
    rw [State.deliverNotices_of_head hlist honce hcmd (State.unreportedClass_eq_some hk hlowest),
      State.deliver_eq hcmd, hlist, filter_ne_of_not_mem honce]
    rfl

/-! ### Fenced sets -/

theorem exec_unfenceSet (s : State) : exec .unfenceSet s = .next (s.arrive .unfenceSet dispatchUnfenceSet State.settle) := by
  rfl

theorem State.judgeUnfenceSet_of_releasing {s : State} {S : SetId} {c : CtxId}
    (h : (s.cacheSet S).fence.releasing = some c) :
    s.judgeUnfenceSet S =
      if s.emptyOfWork S then (s.setCacheSet S CacheSet.reset).finish c .ok (s.cacheSet S).fence.result else s := by
  simp only [State.judgeUnfenceSet, h]

/-- Settles O34: the arrival leaves the fence record as it was, and the judgement reads whether the set is empty of work. -/
theorem fencedSetIsReleased : Obligations.FencedSetIsReleased := by
  unfold Obligations.FencedSetIsReleased
  constructor
  · rintro s a S haccepts rfl
    rw [exec_unfenceSet, haccepts.arrive_eq, dispatchUnfenceSet, State.takeArrival_cacheSet]
    constructor
    · intro hconflict
      exact congrArg (fun u => Host.Outcome.next (State.settle u)) (if_pos hconflict)
    · intro hfenced hidle
      have haccepted : ¬((s.cacheSet (Rec.setId a.record)).fence.failedWay = none ∨
          (s.cacheSet (Rec.setId a.record)).fence.releasing ≠ none) := by
        rintro (h | h)
        · exact hfenced h
        · exact h hidle
      exact congrArg (fun u => Host.Outcome.next (State.settle u)) (if_neg haccepted)
  · intro s S c hreleasing
    rw [State.judgeUnfenceSet_of_releasing hreleasing]
    constructor
    · intro hempty
      rw [if_pos hempty]
      rfl
    · intro hwork
      rw [if_neg (by simp [hwork])]

end Sys2Proof.Machine
end

section
/-! PROOFS. ABORT (R119 to R121): the search, the act on what it finds, and the steps over a range command. -/

namespace Sys2Proof.Machine

/-! ### The search -/

/-- A record of SR0 holds an admin command, and a record of another ring holds none (R107). -/
theorem isAdmin_of_commandOf {n : RingId} {r : Record} {k : CommandKind} (h : commandOf n r = some k) :
    k.isAdmin = (n == 0) := by
  unfold commandOf at h
  split at h
  · split at h
    · next hadmin => exact Option.some.inj h ▸ hadmin
    · cases h
  · cases h

theorem State.isAbortTarget_iff {s : State} {n : RingId} {id : Nat} {t : CtxId} :
    s.isAbortTarget n id t = true ↔ ∃ cmd, s.AbortSeeks n id t cmd := by
  unfold State.isAbortTarget State.AbortSeeks
  cases hcmd : s.command t with
  | none => simp
  | some cmd =>
    cases hk : commandOf cmd.sr cmd.record with
    | none => by_cases hn : n = 0 <;> simp +contextual [hk, hn]
    | some k =>
      by_cases hsr : cmd.sr = n
      · subst hsr
        by_cases hzero : cmd.sr = 0
        · rw [hzero] at hk
          simp [hk, hzero, and_assoc]
        · have hadmin : k.isAdmin = false := (isAdmin_of_commandOf hk).trans (by simpa using hzero)
          simp [hk, hzero, hadmin]
      · simp [hsr]

/-- The ABORT that arrives is no target of its own search: it is a command of SR0, and none that holds an AWAIT NOTICE. -/
theorem State.Accepts.abortSeeks_takeArrival {s : State} {a : Arrival} (h : s.Accepts .abort a) {n : RingId} {id : Nat}
    {t : CtxId} {cmd : Command} : (s.takeArrival a).AbortSeeks n id t cmd ↔ s.AbortSeeks n id t cmd := by
  by_cases ht : t = a.ctx
  · subst ht
    have hbefore : s.command a.ctx = none := by
      rw [State.command, State.arrival_ctx h.1]
    constructor
    · rintro ⟨hcmd, hsr, -, -, hzero, -⟩
      rw [State.takeArrival_command] at hcmd
      obtain rfl := Option.some.inj hcmd
      have hadmin := isAdmin_of_commandOf h.2.1
      have hn : n = 0 := by
        rw [← hsr]
        simpa [CommandKind.isAdmin, arrivedCommand] using hadmin.symm
      have hnotice := (hzero hn).1
      rw [show commandOf (arrivedCommand a.sr a.reserved a.record).sr (arrivedCommand a.sr a.reserved a.record).record =
        some .abort from h.2.1] at hnotice
      cases hnotice
    · rintro ⟨hcmd, -⟩
      rw [hbefore] at hcmd
      cases hcmd
  · have hsame : (s.takeArrival a).command t = s.command t := by
      rw [State.command, State.takeArrival_ctx _ _ ht, State.command]
    unfold State.AbortSeeks
    rw [hsame]
    rfl

theorem State.Accepts.abortTarget_eq_none {s : State} {a : Arrival} (h : s.Accepts .abort a) {n : RingId} {id : Nat}
    (hnone : ∀ t cmd, ¬s.AbortSeeks n id t cmd) : (s.takeArrival a).abortTarget n id = none := by
  refine List.find?_eq_none.mpr fun t _ => ?_
  rw [State.isAbortTarget_iff]
  rintro ⟨cmd, hseeks⟩
  exact hnone t cmd (h.abortSeeks_takeArrival.mp hseeks)

theorem State.Accepts.abortTarget_eq_some {s : State} {a : Arrival} (h : s.Accepts .abort a) {n : RingId} {id : Nat}
    {t : CtxId} {cmd : Command} (hseeks : s.AbortSeeks n id t cmd)
    (hlowest : ∀ d x, d < t → ¬s.AbortSeeks n id d x) : (s.takeArrival a).abortTarget n id = some t := by
  refine find?_finRange_eq_some (State.isAbortTarget_iff.mpr ⟨cmd, h.abortSeeks_takeArrival.mpr hseeks⟩) fun d hd => ?_
  rw [Bool.eq_false_iff, ne_eq, State.isAbortTarget_iff]
  rintro ⟨x, hx⟩
  exact hlowest d x hd (h.abortSeeks_takeArrival.mp hx)

/-! ### The arrival -/

theorem exec_abort (s : State) : exec .abort s = .next (s.arrive .abort dispatchAbort id) := by
  rfl

theorem State.Accepts.exec_abort {s : State} {a : Arrival} (h : s.Accepts .abort a) :
    exec .abort s = .next (dispatchAbort (s.takeArrival a) a.ctx a.record) := by
  rw [Machine.exec_abort, h.arrive_eq, id]

theorem dispatchAbort_of_none {s : State} {c : CtxId} {r : Record} {n : RingId} {id : Nat}
    (hn : n = Rec.ringId (Rec.targetRing r)) (hid : id = Rec.targetCommandId r) (h : s.abortTarget n id = none) :
    dispatchAbort s c r = (s.finish c .ok 0).settle := by
  simp only [dispatchAbort, ← hn, ← hid, h]

theorem dispatchAbort_of_found {s : State} {c t : CtxId} {r : Record} {n : RingId} {id : Nat}
    (hn : n = Rec.ringId (Rec.targetRing r)) (hid : id = Rec.targetCommandId r) (h : s.abortTarget n id = some t) :
    dispatchAbort s c r = ((s.abortFound t).1.finish c .ok 1).settleSets (s.abortFound t).2 := by
  simp only [dispatchAbort, ← hn, ← hid, h]

theorem State.settleSets_nil (s : State) : s.settleSets [] = s.settle := rfl

/-! ### The act on the target -/

section
variable {s : State} {t : CtxId} {cmd : Command} (hcmd : s.command t = some cmd)
include hcmd

theorem State.abortFound_of_marked (hmarked : cmd.aborting = true) : s.abortFound t = (s, []) := by
  simp [State.abortFound, hcmd, hmarked]

variable (hfresh : cmd.aborting = false) {u : State} (hu : u = s.setCtx t (.holding { cmd with aborting := true }))
include hfresh hu

theorem State.abortFound_awaitNotice (hk : commandOf cmd.sr cmd.record = some .awaitNotice) :
    s.abortFound t = (u.abortNotice t, []) := by
  simp [State.abortFound, hcmd, hfresh, hk, hu]

theorem State.abortFound_flushAll (hk : commandOf cmd.sr cmd.record = some .flushAll) :
    s.abortFound t = (u.abortFlushAll t, []) := by
  simp [State.abortFound, hcmd, hfresh, hk, hu]

theorem State.abortFound_range {k : CommandKind} {b : BopKind} (hk : commandOf cmd.sr cmd.record = some k)
    (hb : k.bopKind = some b) : s.abortFound t = u.abortRange t cmd := by
  cases k <;> cases hb <;> simp [State.abortFound, hcmd, hfresh, hk, hu]

end

theorem State.abortFlushAll_of_active {s : State} {t : CtxId} (hactive : s.writeBack.activeFlushAll.isSome = true)
    (hhead : s.commands.flushAllQueue.head? = some t) : s.abortFlushAll t = s.cutFlushAll .aborted :=
  if_pos ⟨hactive, hhead⟩

theorem State.abortFlushAll_of_waiting {s : State} {t : CtxId}
    (h : ¬(s.writeBack.activeFlushAll.isSome = true ∧ s.commands.flushAllQueue.head? = some t)) :
    s.abortFlushAll t = (State.finish { s with commands := { s.commands with
      flushAllQueue := s.commands.flushAllQueue.filter (· != t) } } t .aborted 0).judgeActivation :=
  if_neg h

/-- With a flush-all active, or a walk in progress, the posting of another one judges nothing. -/
theorem State.judgeActivation_finish_of_blocked {s : State} (h : s.writeBack.activeFlushAll.isSome = true ∨
    s.writeBack.walk.isSome = true) (c : CtxId) (st : Status) (v : Nat) :
    (s.finish c st v).judgeActivation = s.finish c st v := by
  refine State.judgeActivation_of_blocked ?_
  rw [(State.SameCore.finish s c st v).writeBack]
  exact h.imp_right .inl

section
variable {s : State} {a : Arrival} {n : RingId} {id : Nat} (haccepts : s.Accepts .abort a)
  (hn : n = Rec.ringId (Rec.targetRing a.record)) (hid : id = Rec.targetCommandId a.record)
include haccepts hn hid

theorem State.Accepts.exec_abort_of_none (hnone : ∀ t cmd, ¬s.AbortSeeks n id t cmd) :
    exec .abort s = .next ((s.takeArrival a).finish a.ctx .ok 0).settle := by
  rw [haccepts.exec_abort, dispatchAbort_of_none hn hid (haccepts.abortTarget_eq_none hnone)]

theorem State.Accepts.exec_abort_of_found {t : CtxId} {cmd : Command} (hseeks : s.AbortSeeks n id t cmd)
    (hlowest : ∀ d x, d < t → ¬s.AbortSeeks n id d x) {u : State} {Ss : List SetId}
    (hact : (s.takeArrival a).abortFound t = (u, Ss)) :
    exec .abort s = .next ((u.finish a.ctx .ok 1).settleSets Ss) := by
  rw [haccepts.exec_abort, dispatchAbort_of_found hn hid (haccepts.abortTarget_eq_some hseeks hlowest), hact]

end

/-! ### The steps over a range command -/

theorem State.endSplitting_of_outstanding {s : State} {c : CtxId} {cmd : Command} (h : s.command c = some cmd)
    (hpos : 0 < cmd.outstanding) : s.endSplitting c = s.setCtx c (.holding { cmd with state := .running }) := by
  simp only [State.endSplitting, h, if_pos hpos]

theorem State.endSplitting_of_none {s : State} {c : CtxId} {cmd : Command} (h : s.command c = some cmd)
    (hzero : cmd.outstanding = 0) : s.endSplitting c = s.toPosting c := by
  simp only [State.endSplitting, h, hzero, lt_irrefl, if_false]

/-- The state in which a SPLITTING target has taken ABORTED and left the split queue. -/
def State.unsplit (s : State) (c : CtxId) (cmd : Command) : State :=
  { s with commands := { s.commands with
    contexts := s.commands.contexts.set c (.holding (cmd.take .aborted cmd.created)),
    splitQueue := s.commands.splitQueue.filter (· != c) } }

theorem State.abortUnsplit_eq {s : State} {c : CtxId} {cmd : Command} (h : s.command c = some cmd) :
    s.abortUnsplit c = if cmd.state = .splitting then (s.unsplit c cmd).endSplitting c else s := by
  simp only [State.abortUnsplit, h]
  rfl

theorem State.unsplit_command (s : State) (c : CtxId) (cmd : Command) :
    (s.unsplit c cmd).command c = some (cmd.take .aborted cmd.created) := by
  simp [State.unsplit, State.command, State.ctx]

/-- The clause of O35 on the offsets not created. -/
theorem abortUnsplit_acts {s : State} {t : CtxId} {cmd : Command} (hcmd : s.command t = some cmd) {worst : Status}
    {failing : Option Nat} (hworst : worst = if cmd.worst.code < Status.aborted.code then .aborted else cmd.worst)
    (hfailing : failing = if cmd.worst.code < Status.aborted.code then some cmd.created
      else if cmd.worst = .aborted then some (min (cmd.failing.getD cmd.created) cmd.created) else cmd.failing) :
    (cmd.state ≠ .splitting → s.abortUnsplit t = s) ∧
    (cmd.state = .splitting → 0 < cmd.outstanding →
      s.abortUnsplit t = { s with commands := { s.commands with
        contexts := s.commands.contexts.set t (.holding { cmd with
          state := .running, worst := worst, failing := failing }),
        splitQueue := s.commands.splitQueue.filter (· != t) } }) ∧
    (cmd.state = .splitting → cmd.outstanding = 0 →
      s.abortUnsplit t = State.toPosting { s with commands := { s.commands with
        contexts := s.commands.contexts.set t (.holding { cmd with worst := worst, failing := failing }),
        splitQueue := s.commands.splitQueue.filter (· != t) } } t) := by
  have htake : cmd.take .aborted cmd.created = { cmd with worst := worst, failing := failing } := by
    rw [Command.take_eq, hworst, hfailing]
    simp
  have hcommand := s.unsplit_command t cmd
  rw [htake] at hcommand
  rw [State.abortUnsplit_eq hcmd]
  refine ⟨fun hstate => if_neg hstate, fun hstate hpos => ?_, fun hstate hzero => ?_⟩
  · rw [if_pos hstate, State.endSplitting_of_outstanding hcommand hpos]
    simp [State.unsplit, State.setCtx]
  · rw [if_pos hstate, State.endSplitting_of_none hcommand hzero, State.unsplit, htake]

theorem any_ctx_iff {q : List Bop} {t : CtxId} : (q.any fun b => b.ctx == t) = true ↔ ∃ b ∈ q, b.ctx = t := by
  simp

theorem any_ctx_eq_false_iff {q : List Bop} {t : CtxId} : (q.any fun b => b.ctx == t) = false ↔ ∀ b ∈ q, b.ctx ≠ t := by
  simp

theorem State.accessQueue_completeAll_setAccessQueue (s : State) (l : LineId) (q bs : List Bop) (st : Status) :
    ((completeAll st bs (s.setAccessQueue l q)).line l).accessQueue = q := by
  rw [(State.SameCore.completeAll st bs _).line, State.setAccessQueue, State.line_setLine_self]

/-- Settles O35: the search is R119's, the act goes by the command found, and each removal is a completion of what it takes out. -/
theorem abortActsOnItsTarget : Obligations.AbortActsOnItsTarget := by
  unfold Obligations.AbortActsOnItsTarget
  refine ⟨fun s a n id haccepts hn hid => ⟨haccepts.exec_abort_of_none hn hid, ?_⟩, ?_,
    fun s t cmd worst failing hcmd hworst hfailing => abortUnsplit_acts hcmd hworst hfailing, ?_, ?_, ?_, ?_, ?_, ?_⟩
  · rintro t cmd u hseeks hlowest hu
    obtain ⟨hcmd, -, -, -, hzero, -⟩ := haccepts.abortSeeks_takeArrival.mpr hseeks
    have hexec := fun {x Ss} => haccepts.exec_abort_of_found hn hid hseeks hlowest (u := x) (Ss := Ss)
    refine ⟨fun hmarked => hexec (State.abortFound_of_marked hcmd hmarked), fun hfresh hring => ?_, fun hfresh hk => ?_,
      fun hfresh k b hk hb => hexec (State.abortFound_range hcmd hfresh hu hk hb)⟩
    · rw [hexec (State.abortFound_awaitNotice hcmd hfresh hu (hzero hring).1), State.settleSets_nil, hu]
      rfl
    rw [hexec (State.abortFound_flushAll hcmd hfresh hu hk), State.settleSets_nil]
    have hrecord : u.writeBack = s.writeBack := by
      rw [hu]
      rfl
    have hqueue : u.commands.flushAllQueue = s.commands.flushAllQueue := by
      rw [hu]
      rfl
    refine ⟨fun f rest hactive hhead => ?_, fun hblocked => ?_, fun hactive => ?_⟩
    · rw [State.abortFlushAll_of_active (by simp [hrecord, hactive]) (by simp [hqueue, hhead]),
        State.cutFlushAll_eq (hrecord ▸ hactive) (hqueue.trans hhead), hrecord]
    · rw [State.abortFlushAll_of_waiting, State.judgeActivation_finish_of_blocked, hqueue]
      · exact hrecord ▸ hblocked.imp And.left And.right
      · rintro ⟨hactive, hhead⟩
        rcases hblocked with ⟨-, hnot⟩ | ⟨hnone, -⟩
        · exact hnot (hqueue ▸ hhead)
        · exact absurd hactive (by simp [hrecord, hnone])
    · rw [State.abortFlushAll_of_waiting (by simp [hrecord, hactive]), hqueue]
  · rintro s t cmd _ _ rfl rfl
    rfl
  · rintro s t _ rfl
    rfl
  · rintro s t l _ _ rfl rfl
    constructor
    · intro hnone
      simp only [State.abortQueued, any_ctx_eq_false_iff.mpr hnone]
      rfl
    · intro hsome
      simp only [State.abortQueued, any_ctx_iff.mpr hsome, if_true, State.accessQueue_completeAll_setAccessQueue]
  · rintro s t S _ rfl
    constructor
    · intro hnone
      simp only [State.abortWaiting, any_ctx_eq_false_iff.mpr hnone]
      rfl
    · intro hsome
      simp only [State.abortWaiting, any_ctx_iff.mpr hsome, if_true]
  · rintro s t l _ rfl
    constructor
    · intro hnone
      exact if_neg (by simpa using hnone)
    · intro hsome
      exact if_pos (by simpa using hsome)
  · rintro t S Ss w ws r k
    refine ⟨rfl, rfl, rfl, ?_⟩
    rintro _ rfl
    rfl
  · exact fun s S Ss => ⟨rfl, rfl⟩

end Sys2Proof.Machine
end

section
/-! PROOFS. What commands leave unchanged. `Blind P` says that a property reads nothing of the directory, the write-back unit, the
faults, the contexts and the rings, nothing of the Media Port but link and capacity, and nothing of the host port but the admin
registers. Every command that is quiet (no write-in data, no message of the partner, no link loss, no write of ENGINE CONTROL or of
the window, no reset) keeps such a property. -/

namespace Sys2Proof.Machine

/-! ### Properties of frames, link, admin registers, engine and queue -/

structure Blind (P : State → Prop) : Prop where
  directory : ∀ s x, P s → P { s with directory := x }
  writeBack : ∀ s x, P s → P { s with writeBack := x }
  faults : ∀ s x, P s → P { s with faults := x }
  commands : ∀ s x, P s → P { s with commands := x }
  rings : ∀ s x, P s → P { s with rings := x }
  media : ∀ s x, P s → x.link = s.media.link → x.capacity = s.media.capacity → P { s with media := x }
  host : ∀ s x, P s → x.adminSubmissionBase = s.host.adminSubmissionBase →
    x.adminCompletionBase = s.host.adminCompletionBase → x.adminRingSizes = s.host.adminRingSizes → P { s with host := x }
  halt : ∀ s, P s → P s.halt
  quiesced : ∀ s b, P s → s.engine.state = .quiescing →
    P { s with engine := { s.engine with state := .quiesced, quiesceResidue := b } }

/-- The commands that touch none of the frames, the link, the admin registers and the queue, and the engine by a halt or at the
quiesce condition only. -/
def isQuiet : Instr → Bool
  | .writeInData .. | .response .. | .announce .. | .linkLoss => false
  | .enable .. | .quiesce .. | .quiesceCleared .. | .flushOnQuiesce .. | .softReset .. | .registerWrite .. => false
  | .hostLinkReset | .powerOn => false
  | _ => true

namespace Blind

variable {P : State → Prop} (h : Blind P) {s t : State}
include h

theorem stable : Stable P where
  commands s x hs := h.commands s x hs
  faults s x hs := h.faults s x hs
  host s _ _ _ _ _ hs := h.host s _ hs rfl rfl rfl
  media s _ _ _ hs := h.media s _ hs rfl rfl
  arbiter s _ _ _ hs := h.rings s _ hs
  sr s _ _ _ _ hs _ := h.rings s _ hs
  srGone s _ hs := h.rings s _ hs
  cr s _ _ _ hs _ _ := h.rings s _ hs
  writeBack s _ _ _ _ _ _ hs := h.writeBack s _ hs
  dirty s _ hs := h.writeBack s _ hs
  set s _ _ hs _ _ := h.directory s _ hs
  reinit s _ hs := h.directory s _ hs
  pin s _ hs _ _ := h.directory s _ hs
  halt := h.halt
  quiesced := h.quiesced

theorem setCr (n : RingId) (r : Option CompletionRing) (hs : P s) : P (s.setCr n r) := h.rings s _ hs

theorem setSr (n : RingId) (q : Option SubmissionRing) (hs : P s) : P (s.setSr n q) := h.rings s _ hs

/-- An arrival with its removal from the intake queue. -/
theorem arrive (k : CommandKind) (dispatch : State → CtxId → Record → State) (finish : State → State)
    (hd : ∀ u c r, P u → P (dispatch u c r)) (hf : ∀ u, P u → P (finish u)) (hs : P s) :
    P (s.arrive k dispatch finish) :=
  h.stable.arrive (fun _ _ => h.rings s _ hs) k dispatch finish (fun u c r hu _ => hd u c r hu) hf hs

theorem arriveRange (k : CommandKind) (hs : P s) : P (s.arriveRange k) :=
  h.stable.arriveRange (fun _ _ => h.rings s _ hs) k hs

/-! ### Dispatches -/

theorem dispatchCreateSubmissionRing (c : CtxId) (r : Record) (hs : P s) : P (dispatchCreateSubmissionRing s c r) := by
  unfold Machine.dispatchCreateSubmissionRing
  dsimp only
  split
  · exact h.stable.finish _ _ _ hs
  · exact h.stable.finish _ _ _ (h.setSr _ _ hs)

theorem dispatchCreateCompletionRing (c : CtxId) (r : Record) (hs : P s) : P (dispatchCreateCompletionRing s c r) := by
  unfold Machine.dispatchCreateCompletionRing
  dsimp only
  split
  · exact h.stable.finish _ _ _ hs
  · exact h.stable.finish _ _ _ (h.setCr _ _ hs)

theorem dispatchDeleteSubmissionRing (c : CtxId) (r : Record) (hs : P s) : P (dispatchDeleteSubmissionRing s c r) := by
  have hconflict := h.stable.finish c .stateConflict 0 hs
  unfold Machine.dispatchDeleteSubmissionRing
  dsimp only
  split
  · exact hconflict
  · split
    · split
      · exact h.stable.judgeDelete _ (h.setSr _ _ hs)
      · exact h.stable.judgeDelete _ (h.setSr _ _ hs)
      · exact hconflict
    · exact hconflict

theorem dispatchDeleteCompletionRing (c : CtxId) (r : Record) (hs : P s) : P (dispatchDeleteCompletionRing s c r) := by
  unfold Machine.dispatchDeleteCompletionRing
  dsimp only
  split
  · exact h.stable.finish _ _ _ hs
  · exact h.stable.finish _ _ _ (h.setCr _ _ hs)

theorem setCrOptions (n : RingId) (q : CompletionRing) (r : Record) (p : Bool) (hs : P s) : P (s.setCrOptions n q r p) := by
  have hsent : P (if (q.takeOptions r).messageDue then (s.setCr n (some (q.takeOptions r))).sendInterrupt n p
      else s.setCr n (some (q.takeOptions r))) := by
    split
    · exact h.stable.sendInterrupt _ _ (h.setCr _ _ hs)
    · exact h.setCr _ _ hs
  unfold State.setCrOptions
  dsimp only
  split
  · exact h.setCr _ _ hsent
  · exact hsent

theorem dispatchSetRingOptions (p : Bool) (c : CtxId) (r : Record) (hs : P s) : P (dispatchSetRingOptions p s c r) := by
  have hconflict := h.stable.finish c .stateConflict 0 hs
  unfold Machine.dispatchSetRingOptions
  dsimp only
  split
  · split
    · split
      · exact hconflict
      · exact h.stable.finish _ _ _ (h.setSr _ _ hs)
    · exact hconflict
  · split
    · split
      · exact hconflict
      · exact h.stable.finish _ _ _ (h.setCrOptions _ _ _ _ hs)
    · exact hconflict

theorem dispatchAwaitNotice (c : CtxId) (r : Record) (hs : P s) : P (dispatchAwaitNotice s c r) := by
  unfold Machine.dispatchAwaitNotice
  split
  · exact h.stable.deliver _ _ hs
  · exact h.commands _ _ hs

theorem dispatchUnfenceSet (c : CtxId) (r : Record) (hs : P s) : P (dispatchUnfenceSet s c r) := by
  unfold Machine.dispatchUnfenceSet
  dsimp only
  split
  · exact h.stable.finish _ _ _ hs
  · exact h.stable.setFence _ _ hs

theorem dispatchAbort (c : CtxId) (r : Record) (hs : P s) : P (dispatchAbort s c r) := by
  unfold Machine.dispatchAbort
  split
  · exact h.stable.settleSets _ (h.stable.finish _ _ _ (h.stable.abortFound _ hs))
  · exact h.stable.settle (h.stable.finish _ _ _ hs)

theorem arriveUnnamed (hs : P s) : P s.arriveUnnamed := by
  unfold State.arriveUnnamed
  split
  · split
    · exact h.stable.settleHost (h.stable.finish _ _ _ (h.commands _ _ (h.rings _ _ hs)))
    · exact hs
  · exact hs

/-! ### Index writes and the ends of ring transfers -/

omit h in
theorem ifUsable (hs : P s) (ht : P t) : P (s.ifUsable t) := by
  unfold State.ifUsable
  split
  · exact ht
  · exact hs

theorem writeSrTail (n : RingId) (v : Nat) (hs : P s) : P (s.writeSrTail n v) := by
  unfold State.writeSrTail
  repeat' split
  · exact h.stable.fetchArbiter (h.setSr _ _ hs)
  · exact h.stable.settleHost (h.stable.faultSr _ _ hs)
  all_goals exact hs

theorem writeCrHead (n : RingId) (v : Nat) (hs : P s) : P (s.writeCrHead n v) := by
  unfold State.writeCrHead
  repeat' split
  · exact h.stable.fetchArbiter (h.setCr _ _ hs)
  · exact h.stable.settleHost (h.stable.faultCr _ _ hs)
  all_goals exact hs

theorem reserve (n : RingId) (hs : P s) : P (s.reserve n).1 := by
  unfold State.reserve
  repeat' split
  · exact h.setCr _ _ hs
  all_goals exact hs

theorem acceptFetch (f : Fetch) (q : SubmissionRing) (r : Record) (hs : P s) : P (s.acceptFetch f q r) :=
  h.stable.fetchArbiter (h.rings _ _ (h.commands _ _ (h.reserve _ (h.setSr _ _ hs))))

theorem endFetch (r : Option Record) (hs : P s) : P (s.endFetch r) := by
  unfold State.endFetch
  split
  · next f _ =>
    have hidle := h.rings s { s.rings with fetch := none } hs
    dsimp only
    split
    · have hfreed := fun q => h.stable.freeContext f.ctx (h.setSr f.sr q hidle)
      split
      · exact h.stable.settleHost (hfreed _)
      · exact h.acceptFetch _ _ _ hidle
      · exact h.acceptFetch _ _ _ hidle
      · exact h.stable.settleHost (h.stable.faultSr _ _ (hfreed _))
      · exact h.stable.settleHost (h.stable.faultSr _ _ (hfreed _))
    · exact hidle
  · exact hs

theorem postSucceeds (n : RingId) (p : Bool) (hs : P s) : P (s.postSucceeds n p) := by
  unfold State.postSucceeds
  split
  · split
    · split
      · refine h.stable.settleHost (h.stable.freeContext _ (h.stable.issueRecord _ ?_))
        split
        · exact h.stable.sendInterrupt _ _ (h.setCr _ _ hs)
        · exact h.setCr _ _ hs
      · exact h.stable.settleHost (h.stable.freeContext _ (h.setCr _ _ hs))
    · exact hs
  · exact hs

theorem postFails (n : RingId) (hs : P s) : P (s.postFails n) := by
  unfold State.postFails
  split
  · split
    · have hfreed := fun c r => h.stable.setCtx c .free (h.setCr n r hs)
      refine h.stable.settleHost (h.stable.judgeDelete _ ?_)
      split
      · exact h.stable.faultCr _ _ (hfreed _ _)
      · exact h.stable.reportFault _ (hfreed _ _)
    · exact hs
  · exact hs

theorem timerExpires (n : RingId) (p : Bool) (hs : P s) : P (s.timerExpires n p) := by
  unfold State.timerExpires
  repeat' split
  · exact h.stable.sendInterrupt _ _ hs
  all_goals exact hs

theorem unmask (v : VectorId) (hs : P s) : P (s.unmask v) := by
  unfold State.unmask
  split
  · exact h.stable.hostWrite _ (h.host _ _ hs rfl rfl rfl)
  · exact hs

/-! ### Events of the cache machinery and of records -/

theorem lookUp (c : CtxId) (o : Nat) (hs : P s) : P (s.lookUp c o) := by
  unfold State.lookUp
  split
  · exact h.stable.settleIf _ _ (h.stable.lookupEvent _ (h.commands s _ hs))
  · exact hs

theorem spoilCode (l : LineId) (hs : P s) : P (s.spoilCode l) := by
  unfold State.spoilCode
  split
  · exact hs
  · exact h.directory _ _ hs

theorem readOutEnds (i : ChannelId) (x : Transfer) (hs : P s) : P (s.readOutEnds i x) := by
  have hreleased := h.stable.releaseRead x.line (h.stable.hostWrite (.readOut x.address (s.frame x.line)) hs)
  unfold State.readOutEnds
  refine h.stable.settleIf _ _ (h.stable.releaseChannel _ (h.stable.completeBop _ _ ?_))
  split
  · exact hreleased
  · exact h.stable.touchWay _ hreleased

theorem readOutRefuses (i : ChannelId) (x : Transfer) (hs : P s) : P (s.readOutRefuses i x) :=
  h.stable.settleIf _ _ (h.stable.releaseChannel _ (h.stable.reportFault _ (h.stable.completeBop _ _
    (h.stable.releaseRead x.line (h.stable.hostWrite _ hs)))))

theorem settleChannel (i : ChannelId) (x : Transfer) (hs : P s) : P (s.settleChannel i x) := by
  unfold State.settleChannel
  split
  · exact h.stable.releaseChannel _ hs
  · exact h.stable.setChannel _ _ hs

theorem releaseFailed (l : LineId) (hs : P s) : P (s.releaseFailed l).1 := by
  unfold State.releaseFailed
  split
  · exact h.stable.relookDetached _ (h.stable.enterInvalid _ (h.stable.setLine _ _ hs (le_refl _)))
  · exact h.stable.releaseExclusive _ hs

theorem readFails (i : ChannelId) (x : Transfer) (n : Nat) (hs : P s) : P (s.readFails i x n) := by
  unfold State.readFails
  split
  · exact hs
  split
  · exact h.settleChannel _ _ hs
  · exact h.stable.settleIf _ _ (h.settleChannel _ _ (h.stable.reportFault _ (h.stable.completeBop _ _
      (h.releaseFailed x.line hs))))

theorem drawEnds (i : SlotId) (m : MediaSlot) (hs : P s) : P (s.drawEnds i m) :=
  h.stable.settleIf _ _ (h.stable.releaseRead _ (h.stable.setSlot _ _ (h.stable.mediaSend _ hs)))

theorem timeOut (i : SlotId) (m : MediaSlot) (hs : P s) : P (s.timeOut i m) := by
  refine h.stable.settleIf _ _ ?_
  repeat' split
  · exact h.stable.setSlot _ _ hs
  · exact h.stable.retry _ _ hs
  · exact h.stable.failSlot _ _ _ hs

theorem recordWritten (c : CtxId) (k : CommandKind) (hs : P s) : P (s.recordWritten c k) := by
  unfold State.recordWritten
  split
  · exact h.stable.settleHost (h.stable.finish _ _ _ hs)
  · exact hs

theorem recordRefused (c : CtxId) (k : CommandKind) (x : HostTransferKind) (hs : P s) : P (s.recordRefused c k x) := by
  unfold State.recordRefused
  split
  · exact h.stable.settleHost (h.stable.finish _ _ _ (h.stable.reportFault _ hs))
  · exact hs

theorem noticeWritten (c : CtxId) (hs : P s) : P (s.noticeWritten c) := by
  unfold State.noticeWritten
  split
  · exact h.stable.settleHost (h.stable.finish _ _ _ hs)
  · exact hs

theorem noticeRefused (c : CtxId) (hs : P s) : P (s.noticeRefused c) := by
  unfold State.noticeRefused
  split
  · exact h.stable.settleHost (h.stable.finish _ _ _ (h.stable.reportFault _ (h.stable.mergeNotice _ hs)))
  · exact hs

/-! ### Commands -/

theorem exec_quiet {c : Instr} (hc : isQuiet c = true) (hs : P s) (ht : exec c s = .next t) : P t := by
  have answers : ∀ u, (Host.Outcome.next u : Host.Outcome State Fault Refusal) = .next t → P u → P t := by
    rintro u hu hP
    cases hu
    exact hP
  have fin := fun u => @Stable.settleHost P h.stable u
  have settled := fun u => @Stable.settle P h.stable u
  have hs' := h.stable
  cases c with
  | read => exact answers _ ht (h.arriveRange _ hs)
  | write => exact answers _ ht (h.arriveRange _ hs)
  | flush => exact answers _ ht (h.arriveRange _ hs)
  | discard => exact answers _ ht (h.arriveRange _ hs)
  | pin => exact answers _ ht (h.arriveRange _ hs)
  | unpin => exact answers _ ht (h.arriveRange _ hs)
  | flushAll =>
    exact answers _ ht (h.arrive _ _ _ (fun u _ _ hu => hs'.judgeActivation (hs'.flushAllQueue _ hu)) settled hs)
  | createSubmissionRing => exact answers _ ht (h.arrive _ _ _ (fun u c r => h.dispatchCreateSubmissionRing c r) fin hs)
  | createCompletionRing => exact answers _ ht (h.arrive _ _ _ (fun u c r => h.dispatchCreateCompletionRing c r) fin hs)
  | deleteSubmissionRing => exact answers _ ht (h.arrive _ _ _ (fun u c r => h.dispatchDeleteSubmissionRing c r) fin hs)
  | deleteCompletionRing => exact answers _ ht (h.arrive _ _ _ (fun u c r => h.dispatchDeleteCompletionRing c r) fin hs)
  | setRingOptions p => exact answers _ ht (h.arrive _ _ _ (fun u c r => h.dispatchSetRingOptions p c r) fin hs)
  | setCleaner => exact answers _ ht (h.arrive _ _ _ (fun u _ _ hu => hs'.finish _ _ _ (h.writeBack u _ hu)) settled hs)
  | setMediaParams =>
    exact answers _ ht (h.arrive _ _ _ (fun u _ _ hu => hs'.finish _ _ _ (h.media u _ hu rfl rfl)) fin hs)
  | reportGeometry => exact answers _ ht (h.arrive _ _ _ (fun u _ _ hu => hs'.hostWrite _ hu) fin hs)
  | awaitNotice => exact answers _ ht (h.arrive _ _ _ (fun u c r => h.dispatchAwaitNotice c r) fin hs)
  | readSet => exact answers _ ht (h.arrive _ _ _ (fun u _ _ hu => hs'.hostWrite _ hu) fin hs)
  | unfenceSet => exact answers _ ht (h.arrive _ _ _ (fun u c r => h.dispatchUnfenceSet c r) settled hs)
  | abort => exact answers _ ht (h.arrive _ _ _ (fun u c r => h.dispatchAbort c r) (fun _ => id) hs)
  | opcodeNamesNoCommand => exact answers _ ht (h.arriveUnnamed hs)
  | srTailWrite n v => exact answers _ ht (ifUsable hs (h.writeSrTail n _ hs))
  | crHeadWrite n v => exact answers _ ht (ifUsable hs (h.writeCrHead n _ hs))
  | vectorUnmasked v => exact answers _ ht (h.unmask v hs)
  | coalescingTimerExpires n p => exact answers _ ht (h.timerExpires n p hs)
  | fetchCompletes r => exact answers _ ht (h.endFetch _ hs)
  | fetchFails => exact answers _ ht (h.endFetch _ hs)
  | completionWriteSucceeds n p => exact answers _ ht (h.postSucceeds n p hs)
  | completionWriteFails n => exact answers _ ht (h.postFails n hs)
  | lookup c o => exact answers _ ht (h.lookUp c o hs)
  | checkCodeGoesBad S w => exact answers _ ht (h.spoilCode ⟨S, w⟩ hs)
  | readOutCompletes i =>
    refine answers _ ht ?_
    split
    · exact h.readOutEnds i _ hs
    · exact hs
  | readOutRefused i =>
    refine answers _ ht ?_
    split
    · exact h.readOutRefuses i _ hs
    · exact hs
  | writeInReadFailed i n =>
    refine answers _ ht ?_
    split
    · exact h.readFails i _ n hs
    · exact hs
  | drawCompletes i =>
    refine answers _ ht ?_
    split
    · exact h.drawEnds i _ hs
    · exact hs
  | unknownMessage m => exact answers _ ht hs
  | responseTimeout i =>
    refine answers _ ht ?_
    split
    · exact h.timeOut i _ hs
    · exact hs
  | busyDelayExpires i =>
    refine answers _ ht ?_
    split
    · exact hs'.settleIf _ _ (hs'.retry i _ hs)
    · exact hs
  | retagWalkVisit =>
    refine answers _ ht ?_
    split
    · exact hs'.settle (hs'.walkVisit _ hs)
    · exact hs
  | noticeWriteSucceeds c => exact answers _ ht (h.noticeWritten c hs)
  | noticeWriteFails c => exact answers _ ht (h.noticeRefused c hs)
  | snapshotWriteSucceeds c => exact answers _ ht (h.recordWritten c _ hs)
  | snapshotWriteFails c => exact answers _ ht (h.recordRefused c _ _ hs)
  | geometryWriteSucceeds c => exact answers _ ht (h.recordWritten c _ hs)
  | geometryWriteFails c => exact answers _ ht (h.recordRefused c _ _ hs)
  | hostLinkUsable => exact answers _ ht (h.host _ _ hs rfl rfl rfl)
  | writeInData _ _ _ | response _ | announce _ | linkLoss | enable _ _ | quiesce _ _ | quiesceCleared _ _
  | flushOnQuiesce _ _ _ | softReset _ _ _ | registerWrite _ _ _ | hostLinkReset | powerOn => cases hc

end Blind

end Sys2Proof.Machine
end

section
/-! PROOFS. What commands leave unchanged: the frame store, the link, the admin registers, the engine state and the queue of
waiting commands. -/

namespace Sys2Proof.Machine

/-! ### The frame store outside a block -/

/-- A block that is replaced leaves every byte outside it, whatever the length of the data. -/
theorem Memory.read_writeBlock_outside (m : List Host.Cell) (base : Nat) (data : List Byte) {a : Nat}
    (ha : a < base ∨ base + 4096 ≤ a) : Memory.read (Memory.writeBlock m base data) a = Memory.read m a := by
  have hblock : ∀ c ∈ Memory.blockCells base 0 (data.take 4096), c.1 ≠ a := by
    intro c hc
    obtain ⟨hlow, hhigh, -⟩ := (Memory.blockCells_keys base 0 (data.take 4096)).2 c hc
    have hlength : (data.take 4096).length ≤ 4096 := List.length_take_le _ _
    omega
  rw [Memory.writeBlock]
  rcases ha with ha | ha
  · rw [Memory.get_append_right _ _ a, Memory.get_append_right _ _ a hblock]
    · exact Memory.read_filter m (fun k => decide (k < base)) a (by simpa using ha)
    · intro c hc
      have := (List.mem_filter.mp hc).2
      simp only [decide_eq_true_eq] at this
      omega
  · rw [Memory.get_append_left _ _ a]
    · exact Memory.read_filter m (fun k => decide (base + 4096 ≤ k)) a (by simpa using ha)
    · intro c hc
      rcases List.mem_append.mp hc with hc | hc
      · have := (List.mem_filter.mp hc).2
        simp only [decide_eq_true_eq] at this
        omega
      · exact hblock c hc

/-! ### Link loss by the state of the link -/

theorem exec_linkLoss_of_up {s : State} (h : s.media.link = .up) :
    exec .linkLoss s = .next (s.loseLink .lost).settle := by
  rw [show exec .linkLoss s = execLinkLoss s from rfl, execLinkLoss, h]

theorem exec_linkLoss_of_down {s : State} (h : s.media.link = .down) : exec .linkLoss s = .next s := by
  rw [show exec .linkLoss s = execLinkLoss s from rfl, execLinkLoss, h]

namespace Blind

variable {P : State → Prop} (h : Blind P) {s t : State}
include h

/-! ### Commands beyond the quiet ones -/

theorem commit (i : ChannelId) (x : Transfer) (hf : ∀ u d, P u → P (u.setFrame x.line d)) (hs : P s) :
    P (s.commit i x) := by
  have hcommitted := h.stable.commitLine x.line (h.stable.touchWay x.line (hf s (x.gather.map Prod.snd) hs))
  unfold State.commit
  dsimp only
  generalize ((s.setFrame x.line (x.gather.map Prod.snd)).touchWay x.line).commitLine x.line = u at hcommitted ⊢
  refine h.stable.settleIf _ _ (h.stable.releaseChannel _ ?_)
  cases x.bop.durable
  · exact h.stable.completeBop _ _ (h.stable.releaseExclusive _ hcommitted)
  · exact h.stable.releaseExclusive _ (h.stable.watchNext _ _ hcommitted)

/-- Returned data writes a frame only at the piece that completes the block of a line that has not been given up. -/
theorem dataReturns (i : ChannelId) (x : Transfer) (p : Nat) (d : List Byte)
    (hf : x.takes p d = true → x.error = false → x.received + d.length = 4096 → (s.line x.line).state ≠ .invalid →
      ∀ u bytes, P u → P (u.setFrame x.line bytes)) (hs : P s) : P (s.dataReturns i x p d) := by
  unfold State.dataReturns
  split
  · exact hs
  · next htakes =>
    split
    · exact h.settleChannel _ _ hs
    · next herror =>
      dsimp only
      split
      · next hlast =>
        split
        · exact h.stable.settleIf _ _ (h.stable.releaseChannel _ (h.stable.completeBop _ _ (h.stable.releaseExclusive _ hs)))
        · next hline =>
          exact h.commit _ _ (hf (by simpa using htakes) (by simpa using herror) hlast
            (fun hgone => hline (beq_iff_eq.mpr hgone))) hs
      · exact h.stable.setChannel _ _ hs

theorem fillLands (l : LineId) (d : List Byte) (hs : P (s.setFrame l d)) : P (s.fillLands l d).1 := by
  unfold State.fillLands
  dsimp only
  split
  · exact h.stable.afterChange l (h.stable.enterInvalid l hs)
  · split
    · exact h.stable.afterChange l (h.stable.touchWay l (h.stable.setLineState l _ hs))
    all_goals exact hs

theorem actOnResponse (i : SlotId) (m : MediaSlot) (r : Judged)
    (hf : m.orphan = false → ∀ d, r = .doneFill d → ∀ u, P u → P (u.setFrame m.line d)) (hs : P s) :
    P (s.actOnResponse i m r).1 := by
  have hslot := fun x => h.stable.setSlot i x hs
  unfold State.actOnResponse
  split
  · exact hslot _
  · next horphan =>
    split
    · next d => exact h.fillLands _ _ (hf (by simpa using horphan) d rfl _ (hslot _))
    · exact h.stable.cleanSucceeds _ (hslot _)
    · exact h.stable.failSlot i m _ hs
    · split
      · exact hslot _
      · exact h.stable.failSlot i m _ hs

omit h in
theorem judgeResponse_eq_doneFill {k : SlotKind} {result : Nat} {data : Option (List Byte)} {d : List Byte}
    (hj : judgeResponse k result data = .doneFill d) : k = .fill ∧ data = some d ∧ result = 0 := by
  unfold judgeResponse at hj
  split at hj
  · next bytes =>
    split at hj
    · next hdone => exact ⟨rfl, congrArg some (Judged.doneFill.inj hj), hdone⟩
    · cases hj
  · split at hj <;> cases hj
  · split at hj
    · cases hj
    · split at hj <;> cases hj
  · cases hj

/-- A message writes a frame only where it lands a fill of a slot that awaits it. -/
theorem takeResponse (m : List Byte)
    (hf : ∀ i attempt block d x, parseMessage m = .response i attempt block 0 (some d) → s.slot i = some x →
      x.state = .awaiting → x.attempt = attempt → x.block = block → x.orphan = false → x.kind = .fill →
      ∀ u, P u → P (u.setFrame x.line d)) (hs : P s) : P (s.takeResponse m) := by
  unfold State.takeResponse
  split
  · next i attempt block result data hm =>
    split
    · next x hx =>
      split
      · next haccepts =>
        simp only [MediaSlot.accepts, Bool.and_eq_true, beq_iff_eq] at haccepts
        obtain ⟨⟨hstate, hattempt⟩, hblock⟩ := haccepts
        refine h.stable.settleIf _ _ (h.actOnResponse _ _ _ (fun horphan d hj => ?_) hs)
        obtain ⟨hkind, rfl, rfl⟩ := judgeResponse_eq_doneFill hj
        exact hf i attempt block d x hm hx hstate hattempt hblock horphan hkind
      · exact hs
    · exact hs
  · exact hs
  · exact hs

theorem takeAnnounce (m : List Byte) (hl : ∀ u x, P u → P { u with media := x }) (hs : P s) : P (s.takeAnnounce m) := by
  have hup : ∀ u c, P u → P (State.linkUp u c) := by
    intro u c hu
    unfold State.linkUp
    split
    · exact hl _ _ hu
    · exact hu
  unfold State.takeAnnounce
  split
  · split
    · split
      · exact h.stable.settle (hup _ _ hs)
      · exact hs
    · exact h.stable.settle (hup _ _ (h.stable.loseLink (fun u => hl u _) _ hs))
  · exact hs
  · exact hs

theorem linkLoss (hl : ∀ u x, P u → P { u with media := x }) (hs : P s) (ht : exec .linkLoss s = .next t) : P t := by
  cases hlink : s.media.link with
  | up =>
    have hend : P (s.loseLink .lost).settle := h.stable.settle (h.stable.loseLink (fun u => hl u _) _ hs)
    exact Host.Outcome.next.inj ((exec_linkLoss_of_up hlink).symm.trans ht) ▸ hend
  | down =>
    exact Host.Outcome.next.inj ((exec_linkLoss_of_down hlink).symm.trans ht) ▸ hs

/-- A write of ENGINE CONTROL, of a property that reads nothing of the engine and survives a soft reset. -/
theorem writeControl (he : ∀ u x, P u → P { u with engine := x }) (hr : ∀ u, P u → P u.softReset) (w : ControlWrite)
    (hs : P s) : P (s.writeControl w) := by
  have hflush := he s { s.engine with flushOnQuiesce := w.flushOnQuiesce } hs
  unfold State.writeControl
  split
  · exact hr s hs
  · dsimp only
    split
    · split
      · unfold State.tryEnable
        split
        · exact h.stable.fetchArbiter (he _ _ (h.setCr _ _ (h.setSr _ _ hflush)))
        · exact he _ _ hflush
      · exact hflush
    · split
      · exact h.stable.settle (he _ _ hflush)
      · exact hflush
    · split
      · exact h.stable.settle hflush
      · exact h.stable.fetchArbiter (he _ _ hflush)
    · split
      · exact hflush
      · exact h.stable.fetchArbiter (he _ _ hflush)
    · exact hflush

/-- A write of a word of the window. -/
theorem writeWord (o v : Nat) (hcontrol : o = 0 → ∀ w, w.softReset = (v / 8 % 2 == 1) → P (s.writeControl w))
    (hadmin : s.engine.state = .disabled → ∀ x, P { s with host := x }) (hs : P s) : P (s.writeWord o v) := by
  have hwrite : ∀ x, P (s.writeAdmin x) := by
    intro x
    unfold State.writeAdmin
    split
    · next hdisabled => exact hadmin hdisabled x
    · exact hs
  unfold State.writeWord
  split
  · next ho => exact hcontrol ho _ rfl
  repeat' split
  all_goals
    first
    | exact hwrite _
    | exact h.writeSrTail _ _ hs
    | exact h.writeCrHead _ _ hs
    | exact hs

end Blind

/-! ### A write of the window -/

theorem State.writeAdmin_of_awake {s : State} (h : s.engine.state ≠ .disabled) (x : HostPort) : s.writeAdmin x = s :=
  if_neg h

/-- The word beside ENGINE CONTROL has no register. -/
theorem State.writeWord_four (s : State) (v : Nat) : s.writeWord 4 v = s := by
  simp [State.writeWord]

theorem State.writeWindow_misaligned {s : State} {o z : Nat} {v : BitVec 64} (h4 : ¬(z = 4 ∧ o % 4 = 0))
    (h8 : ¬(z = 8 ∧ o % 8 = 0)) : s.writeWindow o z v = s := by
  rw [State.writeWindow, if_neg h4, if_neg h8]

theorem State.writeWindow_word (s : State) {o : Nat} (v : BitVec 64) (h : o % 4 = 0) :
    s.writeWindow o 4 v = s.writeWord o (v.toNat % 4294967296) := by
  rw [State.writeWindow, if_pos ⟨rfl, h⟩]

theorem State.writeWindow_submissionBase (s : State) (v : BitVec 64) :
    s.writeWindow 0x020 8 v = s.writeAdmin { s.host with adminSubmissionBase := v } := rfl

theorem State.writeWindow_completionBase (s : State) (v : BitVec 64) :
    s.writeWindow 0x028 8 v = s.writeAdmin { s.host with adminCompletionBase := v } := rfl

theorem State.writeWindow_words (s : State) {o : Nat} (v : BitVec 64) (h : o % 8 = 0) (hsub : o ≠ 0x020) (hcpl : o ≠ 0x028) :
    s.writeWindow o 8 v = (s.writeWord o (v.toNat % 4294967296)).writeWord (o + 4) (v.toNat / 4294967296) := by
  rw [State.writeWindow, if_neg (by simp), if_pos ⟨rfl, h⟩, if_neg hsub, if_neg hcpl]

theorem exec_registerWrite (s : State) (o z : Nat) (v : BitVec 64) :
    exec (.registerWrite o z v) s = .next (s.ifUsable (s.writeWindow o z v)) := by
  rfl

/-- A write of the window that is no write of ENGINE CONTROL, of a property that the admin registers may go by. -/
theorem Blind.writeWindow {P : State → Prop} (h : Blind P) {s : State} {o z : Nat} {v : BitVec 64}
    (hcontrol : o = 0 → ∀ w, (z = 4 ∨ z = 8) → w.softReset = (v.toNat / 8 % 2 == 1) → P (s.writeControl w))
    (hadmin : ∀ u x, P u → u.engine.state = .disabled → P { u with host := x }) (hs : P s) : P (s.writeWindow o z v) := by
  have hbit : v.toNat % 4294967296 / 8 % 2 = v.toNat / 8 % 2 := by omega
  have hfirst : z = 4 ∨ z = 8 → P (s.writeWord o (v.toNat % 4294967296)) := fun hz =>
    h.writeWord _ _ (fun ho w hw => hcontrol ho w hz (hw.trans (by rw [hbit]))) (fun hd x => hadmin s x hs hd) hs
  have hport : ∀ x, P (s.writeAdmin x) := by
    intro x
    unfold State.writeAdmin
    split
    · next hdisabled => exact hadmin s x hs hdisabled
    · exact hs
  by_cases h4 : z = 4 ∧ o % 4 = 0
  · obtain ⟨rfl, ho⟩ := h4
    rw [State.writeWindow_word s v ho]
    exact hfirst (.inl rfl)
  · by_cases h8 : z = 8 ∧ o % 8 = 0
    · obtain ⟨rfl, ho⟩ := h8
      by_cases hsub : o = 0x020
      · rw [hsub, State.writeWindow_submissionBase]
        exact hport _
      · by_cases hcpl : o = 0x028
        · rw [hcpl, State.writeWindow_completionBase]
          exact hport _
        · rw [State.writeWindow_words s v ho hsub hcpl]
          exact h.writeWord _ _ (fun ho' => absurd ho' (by omega)) (fun hd x => hadmin _ x (hfirst (.inr rfl)) hd)
            (hfirst (.inr rfl))
    · rw [State.writeWindow_misaligned h4 h8]
      exact hs

end Sys2Proof.Machine
end

section
/-! PROOFS. The frame statements: O2 and O14 to O17. -/

namespace Sys2Proof.Machine

/-! ### The commands that are not quiet -/

section
variable {s : State}

theorem exec_control {c : Instr} {t : State} (ht : exec c s = .next t) {P : State → Prop} (hs : P s) {w : ControlWrite}
    (hexec : exec c s = .next (s.ifUsable (s.writeControl w))) (hw : P (s.writeControl w)) : P t :=
  Host.Outcome.next.inj (hexec.symm.trans ht) ▸ Blind.ifUsable hs hw

theorem exec_writeInData_keeps {P : State → Prop} (h : Blind P) {t : State} {i : ChannelId} {p : Nat} {d : List Byte}
    (ht : exec (.writeInData i p d) s = .next t)
    (hf : ∀ x, s.writeInOn i = some x → x.takes p d = true → x.error = false → x.received + d.length = 4096 →
      (s.line x.line).state ≠ .invalid → ∀ u bytes, P u → P (u.setFrame x.line bytes)) (hs : P s) : P t := by
  have hexec : exec (.writeInData i p d) s = execWriteInData i p d s := rfl
  rw [execWriteInData] at hexec
  rw [← Host.Outcome.next.inj (hexec.symm.trans ht)]
  split
  · next x hx => exact h.dataReturns i x p d (hf x hx) hs
  · exact hs

theorem exec_response (s : State) (m : List Byte) : exec (.response m) s = .next (s.takeResponse m) := by
  rfl

theorem exec_announce (s : State) (m : List Byte) : exec (.announce m) s = .next (s.takeAnnounce m) := by
  rfl

theorem exec_powerOn (s : State) : exec .powerOn s = .next { State.reset with pending := s.pending } := by
  rfl

theorem exec_hostLinkReset (s : State) : exec .hostLinkReset s = .next (s.softReset.setLinkUsable false) := by
  rfl

end

/-- A command that is not quiet, of a property that reads nothing of the engine and survives a soft reset. -/
theorem Blind.exec_loud {P : State → Prop} (h : Blind P) (he : ∀ u x, P u → P { u with engine := x })
    (hr : ∀ u, P u → P u.softReset) {c : Instr} {s t : State} (hc : isQuiet c = false)
    (hwindow : ∀ o z v, c = .registerWrite o z v → P (s.ifUsable (s.writeWindow o z v)))
    (hdata : ∀ i p d, c = .writeInData i p d → P t) (hresponse : ∀ m, c = .response m → P t)
    (hannounce : ∀ m, c = .announce m → P t) (hloss : c = .linkLoss → P t) (hpower : c = .powerOn → P t)
    (hs : P s) (ht : exec c s = .next t) : P t := by
  have hcontrol := fun w => h.writeControl he hr w hs
  cases c with
  | enable q f => exact exec_control ht hs (w := ⟨true, q, f, false⟩) rfl (hcontrol _)
  | quiesce e f => exact exec_control ht hs (w := ⟨e, true, f, false⟩) rfl (hcontrol _)
  | quiesceCleared e f => exact exec_control ht hs (w := ⟨e, false, f, false⟩) rfl (hcontrol _)
  | flushOnQuiesce f e q => exact exec_control ht hs (w := ⟨e, q, f, false⟩) rfl (hcontrol _)
  | softReset e q f => exact exec_control ht hs (w := ⟨e, q, f, true⟩) rfl (hcontrol _)
  | registerWrite o z v => exact Host.Outcome.next.inj ((exec_registerWrite s o z v).symm.trans ht) ▸ hwindow o z v rfl
  | hostLinkReset =>
    exact Host.Outcome.next.inj ((exec_hostLinkReset s).symm.trans ht) ▸ h.host _ _ (hr s hs) rfl rfl rfl
  | writeInData i p d => exact hdata i p d rfl
  | response m => exact hresponse m rfl
  | announce m => exact hannounce m rfl
  | linkLoss => exact hloss rfl
  | powerOn => exact hpower rfl
  | _ => cases hc

/-! ### The queue of waiting commands -/

theorem blind_pending (q : List Instr) : Blind fun u => u.pending = q where
  directory _ _ h := h
  writeBack _ _ h := h
  faults _ _ h := h
  commands _ _ h := h
  rings _ _ h := h
  media _ _ h _ _ := h
  host _ _ h _ _ _ := h
  halt u h := by
    obtain ⟨x, hx⟩ := u.exists_halt_eq
    rw [hx]
    exact h
  quiesced _ _ h _ := h

theorem exec_pending {c : Instr} {s t : State} (ht : exec c s = .next t) : t.pending = s.pending := by
  have h := blind_pending s.pending
  cases hc : isQuiet c with
  | true => exact h.exec_quiet hc rfl ht
  | false =>
    refine h.exec_loud (fun _ _ hu => hu) (fun _ hu => hu) hc (fun o z v _ => ?_) ?_ ?_ ?_ ?_ ?_ rfl ht
    · refine Blind.ifUsable (P := fun u => u.pending = s.pending) rfl (h.writeWindow (fun _ w _ _ => h.writeControl (fun _ _ hu => hu) (fun _ hu => hu) w rfl)
        (fun _ _ hu _ => hu) rfl)
    · rintro i p d rfl
      exact exec_writeInData_keeps h ht (fun _ _ _ _ _ _ _ _ hu => hu) rfl
    · rintro m rfl
      exact Host.Outcome.next.inj ((exec_response s m).symm.trans ht) ▸
        h.takeResponse m (fun _ _ _ _ _ _ _ _ _ _ _ _ _ hu => hu) rfl
    · rintro m rfl
      exact Host.Outcome.next.inj ((exec_announce s m).symm.trans ht) ▸ h.takeAnnounce m (fun _ _ hu => hu) rfl
    · rintro rfl
      exact h.linkLoss (fun _ _ hu => hu) rfl ht
    · rintro rfl
      exact Host.Outcome.next.inj ((exec_powerOn s).symm.trans ht) ▸ rfl

/-- Every command answers a next state: the arms of `exec` are total functions of the state. -/
theorem exec_answers (c : Instr) (s : State) : ∃ t, exec c s = .next t := by
  cases c <;> exact ⟨_, rfl⟩

/-- Settles O2: every arm answers a next state, and none of the changes it is made of reaches the queue. -/
theorem everyCommandCompletesAndKeepsTheQueue : Obligations.EveryCommandCompletesAndKeepsTheQueue := by
  unfold Obligations.EveryCommandCompletesAndKeepsTheQueue
  intro c s
  obtain ⟨t, ht⟩ := exec_answers c s
  exact ⟨t, ht, exec_pending ht⟩

/-! ### The engine -/

/-- The engine is where the state table can bring it from `e`; from DISABLED, that is DISABLED, until it is enabled. -/
def EngineState.keepsTo (e e' : EngineState) : Prop := e.mayBecome e' = true ∧ (e = .disabled → e' = .disabled)

theorem EngineState.keepsTo_refl (e : EngineState) : e.keepsTo e := by
  cases e <;> exact ⟨rfl, id⟩

theorem State.halt_engine_state (u : State) :
    u.halt.engine.state = if u.engine.state = .disabled then .disabled else .halted := by
  unfold State.halt
  cases h : u.engine.state <;> simp [h]

theorem blind_engine (e : EngineState) : Blind fun u => e.keepsTo u.engine.state where
  directory _ _ h := h
  writeBack _ _ h := h
  faults _ _ h := h
  commands _ _ h := h
  rings _ _ h := h
  media _ _ h _ _ := h
  host _ _ h _ _ _ := h
  halt u h := by
    obtain ⟨hrow, hdisabled⟩ := h
    rw [State.halt_engine_state]
    cases e <;> split <;> simp_all [EngineState.keepsTo, EngineState.mayBecome]
  quiesced u b h hq := by
    obtain ⟨hrow, hdisabled⟩ := h
    rw [hq] at hrow hdisabled
    cases e <;> simp_all [EngineState.keepsTo, EngineState.mayBecome]

theorem State.grant_engine (s : State) (n : RingId) : (s.grant n).engine = s.engine := by
  unfold State.grant
  split <;> rfl

theorem State.fetchArbiter_engine (s : State) : s.fetchArbiter.engine = s.engine := by
  unfold State.fetchArbiter
  split
  · rfl
  · split
    · exact State.grant_engine _ _
    · split
      · exact State.grant_engine _ _
      · split
        · exact State.grant_engine _ _
        · rfl

/-- R170: a write of ENGINE CONTROL without SOFT_RESET moves the engine along the table's rows. -/
theorem State.writeControl_mayBecome (s : State) {w : ControlWrite} (hw : w.softReset = false) :
    s.engine.state.mayBecome (s.writeControl w).engine.state = true := by
  have h := (blind_engine s.engine.state).stable
  unfold State.writeControl
  rw [hw, if_neg Bool.false_ne_true]
  dsimp only
  split
  · next hstate =>
    replace hstate : s.engine.state = .disabled := hstate
    rw [hstate]
    split
    · unfold State.tryEnable
      split
      · rw [State.fetchArbiter_engine]
        rfl
      · rfl
    · rfl
  · next hstate =>
    replace hstate : s.engine.state = .running := hstate
    split
    · exact (h.settle (by rw [hstate]; exact ⟨rfl, nofun⟩)).1
    · exact (EngineState.keepsTo_refl _).1
  · next hstate =>
    replace hstate : s.engine.state = .quiescing := hstate
    split
    · refine (h.settle ?_).1
      exact EngineState.keepsTo_refl _
    · rw [State.fetchArbiter_engine, hstate]
      rfl
  · next hstate =>
    replace hstate : s.engine.state = .quiesced := hstate
    split
    · exact (EngineState.keepsTo_refl _).1
    · rw [State.fetchArbiter_engine, hstate]
      rfl
  · exact (EngineState.keepsTo_refl _).1

/-- A write of ENGINE CONTROL through the window; the word beside it has no register. -/
theorem State.writeWindow_control (s : State) {z : Nat} (v : BitVec 64) (hz : z = 4 ∨ z = 8) :
    ∃ w : ControlWrite, w.softReset = (v.toNat / 8 % 2 == 1) ∧ s.writeWindow 0 z v = s.writeControl w := by
  have hbit : v.toNat % 4294967296 / 8 % 2 = v.toNat / 8 % 2 := by omega
  rcases hz with rfl | rfl
  · rw [State.writeWindow_word s v (by decide)]
    exact ⟨_, congrArg (· == 1) hbit, rfl⟩
  · rw [State.writeWindow_words s v (by decide) (by decide) (by decide), State.writeWord_four]
    exact ⟨_, congrArg (· == 1) hbit, rfl⟩

theorem State.writeWindow_mayBecome {s : State} {o z : Nat} {v : BitVec 64} (hv : isSoftResetWrite o z v = false) :
    s.engine.state.mayBecome (s.writeWindow o z v).engine.state = true := by
  by_cases hcontrol : o = 0 ∧ (z = 4 ∨ z = 8)
  · obtain ⟨rfl, hz⟩ := hcontrol
    obtain ⟨w, hreset, hw⟩ := s.writeWindow_control v hz
    rw [hw]
    refine State.writeControl_mayBecome s (hreset.trans ?_)
    rcases hz with rfl | rfl <;> simpa [isSoftResetWrite] using hv
  · refine ((blind_engine s.engine.state).writeWindow (fun ho w hz _ => absurd ⟨ho, hz⟩ hcontrol) ?_
      (EngineState.keepsTo_refl _)).1
    exact fun _ _ hu _ => hu

/-- Settles O14: the events move the engine by a halt or at the quiesce condition only, and a write of ENGINE CONTROL by its rows. -/
theorem engineMovesByItsTable : Obligations.EngineMovesByItsTable := by
  unfold Obligations.EngineMovesByItsTable
  intro c s t hreset ht
  have h := blind_engine s.engine.state
  have hs := EngineState.keepsTo_refl s.engine.state
  have hcontrol : ∀ w : ControlWrite, w.softReset = false → exec c s = .next (s.ifUsable (s.writeControl w)) →
      s.engine.state.mayBecome t.engine.state = true := fun w hw hexec =>
    exec_control (P := fun u => s.engine.state.mayBecome u.engine.state = true) ht hs.1 hexec
      (s.writeControl_mayBecome hw)
  cases hc : isQuiet c with
  | true => exact (h.exec_quiet hc hs ht).1
  | false =>
    cases c with
    | enable q f => exact hcontrol ⟨true, q, f, false⟩ rfl rfl
    | quiesce e f => exact hcontrol ⟨e, true, f, false⟩ rfl rfl
    | quiesceCleared e f => exact hcontrol ⟨e, false, f, false⟩ rfl rfl
    | flushOnQuiesce f e q => exact hcontrol ⟨e, q, f, false⟩ rfl rfl
    | registerWrite o z v =>
      rw [← Host.Outcome.next.inj ((exec_registerWrite s o z v).symm.trans ht)]
      exact Blind.ifUsable (P := fun u => s.engine.state.mayBecome u.engine.state = true) hs.1
        (State.writeWindow_mayBecome hreset)
    | writeInData i p d => exact (exec_writeInData_keeps h ht (fun _ _ _ _ _ _ _ _ hu => hu) hs).1
    | response m =>
      rw [← Host.Outcome.next.inj ((exec_response s m).symm.trans ht)]
      exact (h.takeResponse m (fun _ _ _ _ _ _ _ _ _ _ _ _ _ hu => hu) hs).1
    | announce m =>
      rw [← Host.Outcome.next.inj ((exec_announce s m).symm.trans ht)]
      exact (h.takeAnnounce m (fun _ _ hu => hu) hs).1
    | linkLoss => exact (h.linkLoss (fun _ _ hu => hu) hs ht).1
    | softReset _ _ _ | hostLinkReset | powerOn => cases hreset
    | _ => cases hc

/-! ### Frames -/

theorem blind_frames (F : List Host.Cell → Prop) : Blind fun u => F u.frames where
  directory _ _ h := h
  writeBack _ _ h := h
  faults _ _ h := h
  commands _ _ h := h
  rings _ _ h := h
  media _ _ h _ _ := h
  host _ _ h _ _ _ := h
  halt u h := by
    obtain ⟨x, hx⟩ := u.exists_halt_eq
    rw [hx]
    exact h
  quiesced _ _ h _ := h

/-- Every byte outside the frame of the line reads as it does in `old`. -/
def sameOutside (old : List Host.Cell) (l : LineId) (m : List Host.Cell) : Prop :=
  ∀ a, a < l.frameBase ∨ l.frameBase + 4096 ≤ a → Memory.read m a = Memory.read old a

theorem sameOutside_setFrame {old : List Host.Cell} {l : LineId} {u : State} (h : sameOutside old l u.frames)
    (bytes : List Byte) : sameOutside old l (u.setFrame l bytes).frames :=
  fun a ha => (Memory.read_writeBlock_outside _ _ _ ha).trans (h a ha)

/-- Settles O15: a frame is written only where a block is committed or a fill lands, and then inside the block of its line. -/
theorem framesChangeOnlyAtCommitAndLanding : Obligations.FramesChangeOnlyAtCommitAndLanding := by
  unfold Obligations.FramesChangeOnlyAtCommitAndLanding
  refine ⟨fun c s t ht => ?_, fun s t i p d x hx ht => ?_, fun s t i p d ht hnot => ?_,
    fun s t m i attempt block result data x hm hx ht => ?_, fun s t m ht hnot => ?_⟩
  · have h := blind_frames (· = s.frames)
    cases hc : isQuiet c with
    | true => exact .inl (h.exec_quiet hc rfl ht)
    | false =>
      by_cases hdata : ∃ i p d, c = .writeInData i p d
      · exact .inr (.inl hdata)
      by_cases hresponse : ∃ m, c = .response m
      · exact .inr (.inr (.inl hresponse))
      by_cases hpower : c = .powerOn
      · exact .inr (.inr (.inr hpower))
      left
      refine h.exec_loud (fun _ _ hu => hu) (fun _ hu => hu) hc (fun o z v _ => ?_)
        (fun i p d hi => absurd ⟨i, p, d, hi⟩ hdata) (fun m hm => absurd ⟨m, hm⟩ hresponse) ?_ ?_
        (fun hp => absurd hp hpower) rfl ht
      · exact Blind.ifUsable (P := fun u => u.frames = s.frames) rfl (h.writeWindow
          (fun _ w _ _ => h.writeControl (fun _ _ hu => hu) (fun _ hu => hu) w rfl) (fun _ _ hu _ => hu) rfl)
      · rintro m rfl
        exact Host.Outcome.next.inj ((exec_announce s m).symm.trans ht) ▸ h.takeAnnounce m (fun _ _ hu => hu) rfl
      · rintro rfl
        exact h.linkLoss (fun _ _ hu => hu) rfl ht
  · refine exec_writeInData_keeps (blind_frames (sameOutside s.frames x.line)) ht ?_ (fun _ _ => rfl)
    rintro y hy - - - - u bytes hu
    obtain rfl := Option.some.inj (hx.symm.trans hy)
    exact sameOutside_setFrame hu bytes
  · refine exec_writeInData_keeps (blind_frames (· = s.frames)) ht ?_ rfl
    intro x hx htakes herror hlast hline
    rcases hnot x hx with h | h | h | h
    · rw [h] at htakes
      cases htakes
    · rw [h] at herror
      cases herror
    · exact absurd hlast h
    · exact absurd h hline
  · rw [← Host.Outcome.next.inj ((exec_response s m).symm.trans ht)]
    refine (blind_frames (sameOutside s.frames x.line)).takeResponse m ?_ (fun _ _ => rfl)
    rintro j _ _ d y hm' hy - - - - - u hu
    rw [hm] at hm'
    cases hm'
    obtain rfl := Option.some.inj (hx.symm.trans hy)
    exact sameOutside_setFrame hu d
  · rw [← Host.Outcome.next.inj ((exec_response s m).symm.trans ht)]
    refine (blind_frames (· = s.frames)).takeResponse m ?_ rfl
    intro i attempt block d x hm hx hstate hattempt hblock horphan hkind
    rcases hnot i attempt block 0 (some d) x hm hx with h | h | h | h | h | h | h
    · exact absurd hstate h
    · exact absurd hattempt h
    · exact absurd hblock h
    · rw [h] at horphan
      cases horphan
    · exact absurd hkind h
    · cases h
    · exact absurd rfl h

/-! ### Link and capacity -/

theorem blind_link (k : LinkState) (n : Nat) : Blind fun u => u.media.link = k ∧ u.media.capacity = n where
  directory _ _ h := h
  writeBack _ _ h := h
  faults _ _ h := h
  commands _ _ h := h
  rings _ _ h := h
  media _ _ h hlink hcapacity := ⟨hlink.trans h.1, hcapacity.trans h.2⟩
  host _ _ h _ _ _ := h
  halt u h := by
    obtain ⟨x, hx⟩ := u.exists_halt_eq
    rw [hx]
    exact h
  quiesced _ _ h _ := h

/-- Settles O16: no change that another command is made of reaches the link or the capacity. -/
theorem linkChangesOnlyAtAnnounceAndLoss : Obligations.LinkChangesOnlyAtAnnounceAndLoss := by
  unfold Obligations.LinkChangesOnlyAtAnnounceAndLoss
  intro c s t ht
  have h := blind_link s.media.link s.media.capacity
  cases hc : isQuiet c with
  | true => exact .inl (h.exec_quiet hc ⟨rfl, rfl⟩ ht)
  | false =>
    by_cases hannounce : ∃ m, c = .announce m
    · exact .inr (.inl hannounce)
    by_cases hloss : c = .linkLoss
    · exact .inr (.inr (.inl hloss))
    by_cases hpower : c = .powerOn
    · exact .inr (.inr (.inr hpower))
    left
    refine h.exec_loud (fun _ _ hu => hu) (fun _ hu => hu) hc (fun o z v _ => ?_) ?_ ?_
      (fun m hm => absurd ⟨m, hm⟩ hannounce) (fun hl => absurd hl hloss) (fun hp => absurd hp hpower) ⟨rfl, rfl⟩ ht
    · exact Blind.ifUsable (P := fun u => u.media.link = s.media.link ∧ u.media.capacity = s.media.capacity) ⟨rfl, rfl⟩
        (h.writeWindow (fun _ w _ _ => h.writeControl (fun _ _ hu => hu) (fun _ hu => hu) w ⟨rfl, rfl⟩)
          (fun _ _ hu _ => hu) ⟨rfl, rfl⟩)
    · rintro i p d rfl
      exact exec_writeInData_keeps h ht (fun _ _ _ _ _ _ _ _ hu => hu) ⟨rfl, rfl⟩
    · rintro m rfl
      exact Host.Outcome.next.inj ((exec_response s m).symm.trans ht) ▸
        h.takeResponse m (fun _ _ _ _ _ _ _ _ _ _ _ _ _ hu => hu) ⟨rfl, rfl⟩

/-! ### Admin registers -/

/-- The three admin ring registers hold what `p` holds in them. -/
def State.AdminIs (p : HostPort) (u : State) : Prop :=
  u.host.adminSubmissionBase = p.adminSubmissionBase ∧ u.host.adminCompletionBase = p.adminCompletionBase ∧
    u.host.adminRingSizes = p.adminRingSizes

theorem blind_admin (p : HostPort) : Blind (State.AdminIs p) where
  directory _ _ h := h
  writeBack _ _ h := h
  faults _ _ h := h
  commands _ _ h := h
  rings _ _ h := h
  media _ _ h _ _ := h
  host _ _ h hsub hcpl hsizes := ⟨hsub.trans h.1, hcpl.trans h.2.1, hsizes.trans h.2.2⟩
  halt u h := by
    obtain ⟨x, hx⟩ := u.exists_halt_eq
    rw [hx]
    exact h
  quiesced _ _ h _ := h

theorem blind_awake : Blind fun u => u.engine.state ≠ .disabled where
  directory _ _ h := h
  writeBack _ _ h := h
  faults _ _ h := h
  commands _ _ h := h
  rings _ _ h := h
  media _ _ h _ _ := h
  host _ _ h _ _ _ := h
  halt u h := by
    rw [State.halt_engine_state, if_neg h]
    exact nofun
  quiesced _ _ _ _ := nofun

theorem Blind.and {P Q : State → Prop} (h : Blind P) (k : Blind Q) : Blind fun u => P u ∧ Q u where
  directory s x hs := ⟨h.directory s x hs.1, k.directory s x hs.2⟩
  writeBack s x hs := ⟨h.writeBack s x hs.1, k.writeBack s x hs.2⟩
  faults s x hs := ⟨h.faults s x hs.1, k.faults s x hs.2⟩
  commands s x hs := ⟨h.commands s x hs.1, k.commands s x hs.2⟩
  rings s x hs := ⟨h.rings s x hs.1, k.rings s x hs.2⟩
  media s x hs hl hc := ⟨h.media s x hs.1 hl hc, k.media s x hs.2 hl hc⟩
  host s x hs h₁ h₂ h₃ := ⟨h.host s x hs.1 h₁ h₂ h₃, k.host s x hs.2 h₁ h₂ h₃⟩
  halt s hs := ⟨h.halt s hs.1, k.halt s hs.2⟩
  quiesced s b hs hq := ⟨h.quiesced s b hs.1 hq, k.quiesced s b hs.2 hq⟩

/-- A write of the window with the engine not DISABLED leaves the admin registers, a write of ENGINE CONTROL included. -/
theorem State.writeWindow_admin {s : State} (hawake : s.engine.state ≠ .disabled) (o z : Nat) (v : BitVec 64) :
    State.AdminIs s.host (s.writeWindow o z v) := by
  by_cases hcontrol : o = 0 ∧ (z = 4 ∨ z = 8)
  · obtain ⟨rfl, hz⟩ := hcontrol
    obtain ⟨w, -, hw⟩ := s.writeWindow_control v hz
    rw [hw]
    exact (blind_admin s.host).writeControl (fun _ _ hu => hu) (fun _ hu => hu) w ⟨rfl, rfl, rfl⟩
  · exact (((blind_admin s.host).and blind_awake).writeWindow (fun ho w hz _ => absurd ⟨ho, hz⟩ hcontrol)
      (fun u x hu hd => absurd hd hu.2) ⟨⟨rfl, rfl, rfl⟩, hawake⟩).1

/-- Settles O17: the only other writer of the admin registers is the window, which writes them while DISABLED only. -/
theorem adminRegistersChangeOnlyWhileDisabled : Obligations.AdminRegistersChangeOnlyWhileDisabled := by
  unfold Obligations.AdminRegistersChangeOnlyWhileDisabled
  intro c s t ht
  have h := blind_admin s.host
  have hs : State.AdminIs s.host s := ⟨rfl, rfl, rfl⟩
  cases hc : isQuiet c with
  | true => exact .inl (h.exec_quiet hc hs ht)
  | false =>
    by_cases hpower : c = .powerOn
    · exact .inr (.inl hpower)
    by_cases hwrite : (∃ o z v, c = .registerWrite o z v) ∧ s.engine.state = .disabled ∧ s.host.linkUsable = true
    · exact .inr (.inr hwrite)
    left
    refine h.exec_loud (fun _ _ hu => hu) (fun _ hu => hu) hc (fun o z v hw => ?_) ?_ ?_ ?_ ?_
      (fun hp => absurd hp hpower) hs ht
    · by_cases husable : s.host.linkUsable = true
      · have hawake : s.engine.state ≠ .disabled := fun hd => hwrite ⟨⟨o, z, v, hw⟩, hd, husable⟩
        exact Blind.ifUsable hs (State.writeWindow_admin hawake o z v)
      · rw [State.ifUsable_of_not_usable (by simpa using husable)]
        exact hs
    · rintro i p d rfl
      exact exec_writeInData_keeps h ht (fun _ _ _ _ _ _ _ _ hu => hu) hs
    · rintro m rfl
      exact Host.Outcome.next.inj ((exec_response s m).symm.trans ht) ▸
        h.takeResponse m (fun _ _ _ _ _ _ _ _ _ _ _ _ _ hu => hu) hs
    · rintro m rfl
      exact Host.Outcome.next.inj ((exec_announce s m).symm.trans ht) ▸ h.takeAnnounce m (fun _ _ hu => hu) hs
    · rintro rfl
      exact h.linkLoss (fun _ _ hu => hu) hs ht

end Sys2Proof.Machine
end

section
/-! PROOFS. The register window (R169, R172, R185): O41. -/

namespace Sys2Proof.Machine

/-! ### Words -/

/-- The offsets, beyond the first, that no register stands at. -/
def isUnusedOffset (o : Nat) : Prop :=
  (0 < o ∧ o < 0x020) ∨ (0x034 ≤ o ∧ o < 0x100) ∨ (0x140 ≤ o ∧ o < 0x180) ∨ 0x1C0 ≤ o

theorem State.writeWord_unused (s : State) {o : Nat} (h : isUnusedOffset o) (v : Nat) : s.writeWord o v = s := by
  unfold isUnusedOffset at h
  rw [State.writeWord, if_neg (by omega), if_neg (by omega), if_neg (by omega), if_neg (by omega), if_neg (by omega),
    if_neg (by omega), if_neg (by omega), if_neg (by omega)]

theorem State.writeWord_srTail (s : State) (n : RingId) (v : Nat) : s.writeWord (0x100 + 4 * n.val) v = s.writeSrTail n v := by
  have hn := n.isLt
  have hring : (Fin.ofNat 16 ((0x100 + 4 * n.val - 0x100) / 4) : RingId) = n := by
    apply Fin.ext
    simp only [Fin.ofNat]
    omega
  rw [State.writeWord, if_neg (by omega), if_neg (by omega), if_neg (by omega), if_neg (by omega), if_neg (by omega),
    if_neg (by omega), if_pos (by omega), hring]

theorem State.writeWord_crHead (s : State) (n : RingId) (v : Nat) : s.writeWord (0x180 + 4 * n.val) v = s.writeCrHead n v := by
  have hn := n.isLt
  have hring : (Fin.ofNat 16 ((0x180 + 4 * n.val - 0x180) / 4) : RingId) = n := by
    apply Fin.ext
    simp only [Fin.ofNat]
    omega
  rw [State.writeWord, if_neg (by omega), if_neg (by omega), if_neg (by omega), if_neg (by omega), if_neg (by omega),
    if_neg (by omega), if_neg (by omega), if_pos (by omega), hring]

/-- R172: the admin registers ignore a write while the engine is not DISABLED. -/
theorem State.writeWord_admin_of_awake {s : State} (hawake : s.engine.state ≠ .disabled) {o : Nat} (hlow : 0x020 ≤ o)
    (hhigh : o < 0x034) (v : Nat) : s.writeWord o v = s := by
  rw [State.writeWord, if_neg (by omega)]
  repeat' split
  all_goals first
    | exact State.writeAdmin_of_awake hawake _
    | omega
    | rfl

/-- A write of the window changes nothing if neither of its words does. -/
theorem State.writeWindow_of_words {s : State} {o z : Nat} {v : BitVec 64} (hlow : ∀ x, s.writeWord o x = s)
    (hhigh : o % 8 = 0 → ∀ x, s.writeWord (o + 4) x = s)
    (hbase : o = 0x020 ∨ o = 0x028 → s.engine.state ≠ .disabled) : s.writeWindow o z v = s := by
  by_cases h4 : z = 4 ∧ o % 4 = 0
  · obtain ⟨rfl, ho⟩ := h4
    rw [State.writeWindow_word s v ho, hlow]
  · by_cases h8 : z = 8 ∧ o % 8 = 0
    · obtain ⟨rfl, ho⟩ := h8
      by_cases hsub : o = 0x020
      · subst hsub
        exact State.writeAdmin_of_awake (hbase (.inl rfl)) _
      · by_cases hcpl : o = 0x028
        · subst hcpl
          exact State.writeAdmin_of_awake (hbase (.inr rfl)) _
        · rw [State.writeWindow_words s v ho hsub hcpl, hlow, hhigh ho]
    · exact State.writeWindow_misaligned h4 h8

theorem State.writeWindow_unused (s : State) {o : Nat} (h : isUnusedOffset o) (hnext : o % 8 = 0 → isUnusedOffset (o + 4))
    (z : Nat) (v : BitVec 64) : s.writeWindow o z v = s := by
  refine State.writeWindow_of_words (s.writeWord_unused h) (fun ho => s.writeWord_unused (hnext ho)) fun hbase => ?_
  unfold isUnusedOffset at h
  omega

/-! ### Halves of 64-bit registers -/

theorem replaceLow_eq (b v : BitVec 64) :
    replaceLow b (v.toNat % 4294967296) = b.extractLsb' 32 32 ++ v.extractLsb' 0 32 := by
  apply BitVec.eq_of_toNat_eq
  have hb := b.isLt
  simp only [replaceLow, BitVec.toNat_ofNat, BitVec.toNat_append, BitVec.extractLsb'_toNat, Nat.shiftRight_eq_div_pow]
  rw [← Nat.shiftLeft_add_eq_or_of_lt (by omega), Nat.shiftLeft_eq]
  omega

theorem replaceHigh_eq (b v : BitVec 64) :
    replaceHigh b (v.toNat % 4294967296) = v.extractLsb' 0 32 ++ b.extractLsb' 0 32 := by
  apply BitVec.eq_of_toNat_eq
  simp only [replaceHigh, BitVec.toNat_ofNat, BitVec.toNat_append, BitVec.extractLsb'_toNat, Nat.shiftRight_zero]
  rw [← Nat.shiftLeft_add_eq_or_of_lt (by omega), Nat.shiftLeft_eq]
  omega

theorem toNat_low_word (v : BitVec 64) : (v.extractLsb' 0 32).toNat = v.toNat % 4294967296 := by
  simp [BitVec.extractLsb'_toNat]

theorem ofNat_low_word (v : BitVec 64) : BitVec.ofNat 32 (v.toNat % 4294967296) = v.extractLsb' 0 32 := by
  apply BitVec.eq_of_toNat_eq
  rw [toNat_low_word, BitVec.toNat_ofNat]
  omega

theorem toNat_high_word (b : BitVec 64) : (b.extractLsb' 32 32).toNat = b.toNat / 4294967296 := by
  have hb := b.isLt
  rw [BitVec.extractLsb'_toNat, Nat.shiftRight_eq_div_pow]
  omega

theorem toNat_and_low_word (v : BitVec 64) : (v &&& 0xFFFFFFFF).toNat % 4294967296 = v.toNat % 4294967296 := by
  have hmask : (v &&& 0xFFFFFFFF).toNat = v.toNat % 2 ^ 32 := by
    rw [BitVec.toNat_and, ← Nat.and_two_pow_sub_one_eq_mod]
    rfl
  omega

theorem toNat_ushiftRight_word (v : BitVec 64) : (v >>> 32).toNat % 4294967296 = v.toNat / 4294967296 := by
  have hv := v.isLt
  rw [BitVec.toNat_ushiftRight, Nat.shiftRight_eq_div_pow]
  omega

/-- A bit of the value, as ENGINE CONTROL reads it from the low word. -/
theorem low_word_bit (v : BitVec 64) {i : Nat} (hi : i < 32) :
    (v.toNat % 4294967296 / 2 ^ i % 2 == 1) = v[i]'(by omega) := by
  have hlow : (v.toNat % 2 ^ 32).testBit i = v.toNat.testBit i := by
    rw [Nat.testBit_mod_two_pow, decide_eq_true hi, Bool.true_and]
  rw [BitVec.getElem_eq_testBit_toNat, ← hlow, Nat.testBit_eq_decide_div_mod_eq]
  rfl

/-! ### ENGINE CONTROL through the window -/

theorem State.writeControl_softReset (s : State) {w : ControlWrite} (h : w.softReset = true) :
    s.writeControl w = s.softReset :=
  if_pos h

theorem State.writeWord_control (s : State) (v : BitVec 64) :
    s.writeWord 0 (v.toNat % 4294967296) = s.writeControl
      { enable := v[0], quiesce := v[1], flushOnQuiesce := v[2], softReset := v[3] } := by
  have henable : (v.toNat % 4294967296 % 2 == 1) = v[0] := by simpa using low_word_bit v (i := 0) (by decide)
  have hquiesce : (v.toNat % 4294967296 / 2 % 2 == 1) = v[1] := low_word_bit v (i := 1) (by decide)
  have hflush : (v.toNat % 4294967296 / 4 % 2 == 1) = v[2] := low_word_bit v (i := 2) (by decide)
  have hreset : (v.toNat % 4294967296 / 8 % 2 == 1) = v[3] := low_word_bit v (i := 3) (by decide)
  rw [State.writeWord, if_pos rfl, henable, hquiesce, hflush, hreset]

/-! ### The host link stays usable -/

theorem stable_linkUsable : Stable fun u => u.host.linkUsable = true where
  commands _ _ h := h
  faults _ _ h := h
  host _ _ _ _ _ _ h := h
  media _ _ _ _ h := h
  arbiter _ _ _ _ h := h
  sr _ _ _ _ _ h _ := h
  srGone _ _ h := h
  cr _ _ _ _ h _ _ := h
  writeBack _ _ _ _ _ _ _ h := h
  dirty _ _ h := h
  set _ _ _ h _ _ := h
  reinit _ _ h := h
  pin _ _ h _ _ := h
  halt u h := by
    obtain ⟨x, hx⟩ := u.exists_halt_eq
    rw [hx]
    exact h
  quiesced _ _ h _ := h

theorem State.writeControl_linkUsable {s : State} (h : s.host.linkUsable = true) (w : ControlWrite) :
    (s.writeControl w).host.linkUsable = true := by
  have hset : ∀ x, ({ s with engine := x } : State).host.linkUsable = true := fun _ => h
  unfold State.writeControl
  split
  · exact h
  · dsimp only
    split
    · split
      · unfold State.tryEnable
        split
        · exact stable_linkUsable.fetchArbiter h
        · exact h
      · exact h
    · split
      · exact stable_linkUsable.settle h
      · exact h
    · split
      · exact stable_linkUsable.settle h
      · exact stable_linkUsable.fetchArbiter h
    · split
      · exact h
      · exact stable_linkUsable.fetchArbiter h
    · exact h

theorem State.writeSrTail_linkUsable {s : State} (h : s.host.linkUsable = true) (n : RingId) (v : Nat) :
    (s.writeSrTail n v).host.linkUsable = true := by
  unfold State.writeSrTail
  repeat' split
  · exact stable_linkUsable.fetchArbiter h
  · exact stable_linkUsable.settleHost (stable_linkUsable.faultSr _ _ h)
  all_goals exact h

theorem State.writeCrHead_linkUsable {s : State} (h : s.host.linkUsable = true) (n : RingId) (v : Nat) :
    (s.writeCrHead n v).host.linkUsable = true := by
  unfold State.writeCrHead
  repeat' split
  · exact stable_linkUsable.fetchArbiter h
  · exact stable_linkUsable.settleHost (stable_linkUsable.faultCr _ _ h)
  all_goals exact h

theorem State.writeAdmin_linkUsable {s : State} (h : s.host.linkUsable = true) {x : HostPort} (hx : x.linkUsable = true) :
    (s.writeAdmin x).host.linkUsable = true := by
  unfold State.writeAdmin
  split
  · exact hx
  · exact h

theorem State.writeWord_linkUsable {s : State} (h : s.host.linkUsable = true) (o v : Nat) :
    (s.writeWord o v).host.linkUsable = true := by
  unfold State.writeWord
  repeat' split
  all_goals first
    | exact State.writeControl_linkUsable h _
    | exact State.writeAdmin_linkUsable h h
    | exact State.writeSrTail_linkUsable h _ _
    | exact State.writeCrHead_linkUsable h _ _
    | exact h

/-! ### Reads -/

theorem State.readRegister_word (s : State) {o : Nat} (h : o % 4 = 0) : s.readRegister o 4 = s.readWord o := by
  rw [State.readRegister, if_pos ⟨rfl, h⟩]

theorem State.readRegister_words (s : State) {o : Nat} (h : o % 8 = 0) :
    s.readRegister o 8 = s.readWord o + 4294967296 * s.readWord (o + 4) := by
  rw [State.readRegister, if_neg (by simp), if_pos ⟨rfl, h⟩]

theorem State.readWord_unused (s : State) {o : Nat} (h : o = 0x004 ∨ (0x014 ≤ o ∧ o < 0x020) ∨ (0x034 ≤ o ∧ o < 0x100) ∨
    (0x140 ≤ o ∧ o < 0x180) ∨ 0x1C0 ≤ o) : s.readWord o = 0 := by
  rw [State.readWord, if_neg (by omega), if_neg (by omega), if_neg (by omega), if_neg (by omega), if_neg (by omega),
    if_neg (by omega), if_neg (by omega), if_neg (by omega), if_neg (by omega), if_neg (by omega), if_neg (by omega)]

theorem State.readRegister_status1 (s : State) (hunclean : s.writeBack.unclean0 + s.writeBack.unclean1 ≤ 32768)
    (hdirty : s.writeBack.dirtyOrder.length ≤ 32768) :
    s.readRegister 0x00C 4 =
      s.writeBack.unclean0 + s.writeBack.unclean1 + 2 ^ 16 * s.writeBack.dirtyOrder.length := by
  rw [State.readRegister_word s (by decide)]
  show s.uncleanTotal % 65536 + 65536 * (s.dirtyCount % 65536) = _
  rw [State.uncleanTotal, State.dirtyCount, Nat.mod_eq_of_lt (by omega), Nat.mod_eq_of_lt (by omega)]
  rfl

/-- Settles O41: a write goes by its offset, word by word; a read likewise. -/
theorem registerWriteIsRouted : Obligations.RegisterWriteIsRouted := by
  unfold Obligations.RegisterWriteIsRouted
  refine ⟨fun s value husable => ?_, fun s => ?_⟩
  · have hexec : ∀ o z (v : BitVec 64), exec (.registerWrite o z v) s = .next (s.writeWindow o z v) := fun o z v => by
      rw [exec_registerWrite, State.ifUsable_of_usable husable]
    have hsame : ∀ {o z}, s.writeWindow o z value = s → exec (.registerWrite o z value) s = .next s := fun h => by
      rw [hexec, h]
    refine ⟨fun hdisabled => ?_, fun hawake o z hlow hhigh => hsame ?_, fun o z hodd => hsame ?_,
      fun o z hlow hhigh => hsame (s.writeWindow_unused ?_ ?_ z value), fun n => ?_, fun n => ?_, ?_,
      fun o z ho => hsame (s.writeWindow_unused ?_ ?_ z value), fun o ho hsub hcpl => ?_⟩
    · have hadmin : ∀ x, s.writeAdmin x = { s with host := x } := fun x => if_pos hdisabled
      refine ⟨?_, ?_, ?_, ?_, ?_, ?_, ?_⟩
      · rw [hexec, State.writeWindow_submissionBase, hadmin]
      · rw [hexec, State.writeWindow_completionBase, hadmin]
      · rw [hexec, State.writeWindow_word s value (by decide), ← replaceLow_eq]
        exact congrArg Host.Outcome.next (hadmin _)
      · rw [hexec, State.writeWindow_word s value (by decide), ← replaceHigh_eq]
        exact congrArg Host.Outcome.next (hadmin _)
      · rw [hexec, State.writeWindow_word s value (by decide), ← replaceLow_eq]
        exact congrArg Host.Outcome.next (hadmin _)
      · rw [hexec, State.writeWindow_word s value (by decide), ← replaceHigh_eq]
        exact congrArg Host.Outcome.next (hadmin _)
      · rw [hexec, State.writeWindow_word s value (by decide), ← ofNat_low_word]
        exact congrArg Host.Outcome.next (hadmin _)
    · refine State.writeWindow_of_words (State.writeWord_admin_of_awake hawake hlow hhigh) (fun ho x => ?_)
        fun _ => hawake
      by_cases hlast : o + 4 < 0x034
      · exact State.writeWord_admin_of_awake hawake (by omega) hlast x
      · exact s.writeWord_unused (by unfold isUnusedOffset; omega) x
    · refine State.writeWindow_misaligned (fun h4 => hodd ?_) fun h8 => hodd ?_
      · obtain ⟨rfl, ho⟩ := h4
        exact ⟨.inl rfl, ho⟩
      · obtain ⟨rfl, ho⟩ := h8
        exact ⟨.inr rfl, ho⟩
    · unfold isUnusedOffset
      omega
    · unfold isUnusedOffset
      omega
    · rw [hexec, State.writeWindow_word s value (by omega), State.writeWord_srTail, exec_srTailWrite husable,
        toNat_low_word]
    · rw [hexec, State.writeWindow_word s value (by omega), State.writeWord_crHead, ← toNat_low_word]
      exact congrArg Host.Outcome.next (State.ifUsable_of_usable husable _).symm
    · rw [hexec, State.writeWindow_word s value (by decide), State.writeWord_control]
      split
      · next hreset =>
        rw [State.writeControl_softReset s hreset, exec_softReset husable]
      · next hreset =>
        rw [exec_flushOnQuiesce husable, Bool.eq_false_iff.mpr hreset]
    · unfold isUnusedOffset
      omega
    · unfold isUnusedOffset
      omega
    · refine ⟨s.writeWord o (value.toNat % 4294967296), ?_, ?_⟩
      · rw [hexec, State.writeWindow_word _ _ (by omega), toNat_and_low_word]
      · rw [hexec, State.writeWindow_words s value ho hsub hcpl, exec_registerWrite,
          State.ifUsable_of_usable (State.writeWord_linkUsable husable _ _), State.writeWindow_word _ _ (by omega),
          toNat_ushiftRight_word]
  · refine ⟨?_, ?_, s.readRegister_status1, ?_, ?_, ?_, ?_, ?_, ?_, ?_, ?_, fun o ho _ _ => ?_, fun o z hodd => ?_,
      fun o ho => ?_⟩
    · show s.engineControlWord = _
      unfold State.engineControlWord EngineControl.quiesceRead
      cases s.engine.state <;> rfl
    · rw [State.readRegister_word s (by decide)]
      show s.engineStatusWord0 = _
      unfold State.engineStatusWord0 EngineState.code
      cases s.engine.state <;> rfl
    · rfl
    · rw [State.readRegister_words s (by decide)]
      exact Nat.mod_add_div _ _
    · rw [State.readRegister_words s (by decide)]
      exact Nat.mod_add_div _ _
    · rw [toNat_low_word]
      rfl
    · rw [toNat_high_word]
      rfl
    · rw [toNat_low_word]
      rfl
    · rw [toNat_high_word]
      rfl
    · rfl
    · rw [State.readRegister_words s ho, State.readRegister_word s (by omega), State.readRegister_word s (by omega)]
      rfl
    · rw [State.readRegister, if_neg, if_neg]
      · rintro ⟨rfl, ho⟩
        exact hodd ⟨.inr rfl, ho⟩
      · rintro ⟨rfl, ho⟩
        exact hodd ⟨.inl rfl, ho⟩
    · by_cases haligned : o % 4 = 0
      · rw [State.readRegister_word s haligned, s.readWord_unused ho]
      · rw [State.readRegister, if_neg (by simp [haligned]), if_neg (by simp)]

end Sys2Proof.Machine
end

section
/-! PROOFS. Records and messages (chapter 9): O22. A record is the number that `assemble` makes of its fields; in a list of fields
that stand in rising places each can be read back, and what no field covers reads zero. -/

namespace Sys2Proof.Machine

/-! ### Fields of an assembled number -/

/-- Each field ends before the next begins. -/
def FieldsRise (fs : List (Nat × Nat × Nat)) : Prop := fs.Pairwise fun f g => f.1 + f.2.1 ≤ g.1

theorem assemble_append (fs gs : List (Nat × Nat × Nat)) : assemble (fs ++ gs) = assemble fs + assemble gs := by
  induction fs with
  | nil => simp [assemble]
  | cons f fs ih =>
    obtain ⟨o, z, v⟩ := f
    simp only [List.cons_append, assemble, ih]
    omega

/-- Fields that end at `o` or before make a number below `256 ^ o`. -/
theorem assemble_lt {fs : List (Nat × Nat × Nat)} (hrise : FieldsRise fs) {o : Nat} (hend : ∀ f ∈ fs, f.1 + f.2.1 ≤ o) :
    assemble fs < 256 ^ o := by
  induction fs using List.reverseRecOn generalizing o with
  | nil => exact Nat.pow_pos (by decide)
  | append_singleton fs f ih =>
    obtain ⟨p, z, v⟩ := f
    obtain ⟨hfs, -, hbefore⟩ := List.pairwise_append.mp hrise
    have hlow : assemble fs < 256 ^ p := ih hfs fun g hg => hbefore g hg _ (List.mem_singleton_self _)
    have htop : p + z ≤ o := hend (p, z, v) (by simp)
    calc assemble (fs ++ [(p, z, v)]) = assemble fs + v % 256 ^ z * 256 ^ p := by simp [assemble_append, assemble]
      _ < (v % 256 ^ z + 1) * 256 ^ p := by rw [Nat.add_mul, Nat.one_mul]; omega
      _ ≤ 256 ^ z * 256 ^ p := Nat.mul_le_mul_right _ (Nat.mod_lt _ (Nat.pow_pos (by decide)))
      _ = 256 ^ (p + z) := by rw [Nat.add_comm p z, Nat.pow_add]
      _ ≤ 256 ^ o := Nat.pow_le_pow_right (by decide) htop

/-- Fields that begin at `o` or behind make a multiple of `256 ^ o`. -/
theorem dvd_assemble {fs : List (Nat × Nat × Nat)} {o : Nat} (hbegin : ∀ f ∈ fs, o ≤ f.1) : 256 ^ o ∣ assemble fs := by
  induction fs with
  | nil => exact dvd_zero _
  | cons f fs ih =>
    obtain ⟨p, z, v⟩ := f
    exact dvd_add (Dvd.dvd.mul_left (Nat.pow_dvd_pow _ (hbegin (p, z, v) (by simp))) _)
      (ih fun g hg => hbegin g (by simp [hg]))

/-- What stands in the window of `z` bytes at `o` is what the fields inside it make. -/
theorem window_assemble {low mid high : List (Nat × Nat × Nat)} {o z : Nat} (hrise : FieldsRise (low ++ mid ++ high))
    (hlow : ∀ f ∈ low, f.1 + f.2.1 ≤ o) (hbegin : ∀ f ∈ mid, o ≤ f.1) (hend : ∀ f ∈ mid, f.1 + f.2.1 ≤ o + z)
    (hhigh : ∀ f ∈ high, o + z ≤ f.1) :
    assemble (low ++ mid ++ high) / 256 ^ o % 256 ^ z = assemble mid / 256 ^ o := by
  obtain ⟨hlm, -, -⟩ := List.pairwise_append.mp hrise
  obtain ⟨hl, hm, -⟩ := List.pairwise_append.mp hlm
  have hsmall : assemble low < 256 ^ o := assemble_lt hl hlow
  have hbound : assemble mid < 256 ^ o * 256 ^ z := by
    rw [← Nat.pow_add]
    exact assemble_lt hm hend
  obtain ⟨m, hm⟩ := dvd_assemble hbegin
  obtain ⟨n, hn⟩ := dvd_assemble hhigh
  have hpos : 0 < 256 ^ o := Nat.pow_pos (by decide)
  have hsum : assemble (low ++ mid ++ high) = assemble low + 256 ^ o * (m + 256 ^ z * n) := by
    rw [assemble_append, assemble_append, hm, hn, Nat.pow_add]
    ring
  rw [hm] at hbound
  rw [hsum, Nat.add_mul_div_left _ _ hpos, Nat.div_eq_of_lt hsmall, Nat.zero_add, Nat.add_mul_mod_self_left,
    Nat.mod_eq_of_lt (Nat.lt_of_mul_lt_mul_left hbound), hm, Nat.mul_div_cancel_left _ hpos]

/-! ### Fields of a record -/

theorem extractLsb'_ofNat {N n s l : Nat} (h : s + l ≤ N) :
    (BitVec.ofNat N n).extractLsb' s l = BitVec.ofNat l (n / 2 ^ s) := by
  apply BitVec.eq_of_getLsbD_eq
  intro i hi
  rw [BitVec.getLsbD_extractLsb', BitVec.getLsbD_ofNat, BitVec.getLsbD_ofNat, Nat.testBit_div_two_pow]
  simp [hi, show s + i < N by omega, Nat.add_comm]

theorem ofNat_eq_of_window {l z n x : Nat} (hl : l = 8 * z) (h : n % 256 ^ z = x % 256 ^ z) :
    BitVec.ofNat l n = BitVec.ofNat l x := by
  apply BitVec.eq_of_toNat_eq
  rw [BitVec.toNat_ofNat, BitVec.toNat_ofNat, hl, Nat.pow_mul]
  exact h

theorem extractLsb'_assemble {fs : List (Nat × Nat × Nat)} {N s l o z x : Nat} (hs : s = 8 * o) (hl : l = 8 * z)
    (hN : s + l ≤ N) (h : assemble fs / 256 ^ o % 256 ^ z = x) :
    (BitVec.ofNat N (assemble fs)).extractLsb' s l = BitVec.ofNat l x := by
  rw [extractLsb'_ofNat hN]
  refine ofNat_eq_of_window hl ?_
  rw [hs, Nat.pow_mul, ← h]
  exact (Nat.mod_mod _ _).symm

/-- A run of fields. -/
theorem record_run {fs low mid high : List (Nat × Nat × Nat)} {N s l o z : Nat} (hs : s = 8 * o) (hl : l = 8 * z)
    (hN : s + l ≤ N) (hrise : FieldsRise fs) (hfs : fs = low ++ mid ++ high) (hlow : ∀ f ∈ low, f.1 + f.2.1 ≤ o)
    (hbegin : ∀ f ∈ mid, o ≤ f.1) (hend : ∀ f ∈ mid, f.1 + f.2.1 ≤ o + z) (hhigh : ∀ f ∈ high, o + z ≤ f.1) :
    (BitVec.ofNat N (assemble fs)).extractLsb' s l = BitVec.ofNat l (assemble mid / 256 ^ o) := by
  subst hfs
  exact extractLsb'_assemble hs hl hN (window_assemble hrise hlow hbegin hend hhigh)

/-- A field reads as its value. -/
theorem record_field {fs : List (Nat × Nat × Nat)} {N s l o z v : Nat} (hs : s = 8 * o) (hl : l = 8 * z) (hN : s + l ≤ N)
    (hrise : FieldsRise fs) (hmem : (o, z, v) ∈ fs) :
    (BitVec.ofNat N (assemble fs)).extractLsb' s l = BitVec.ofNat l v := by
  obtain ⟨low, high, rfl⟩ := List.append_of_mem hmem
  obtain ⟨-, hcons, hbefore⟩ := List.pairwise_append.mp hrise
  have hpos : 0 < 256 ^ o := Nat.pow_pos (by decide)
  rw [record_run (low := low) (mid := [(o, z, v)]) (high := high) hs hl hN hrise (by simp)
    (fun f hf => hbefore f hf (o, z, v) (by simp)) (by simp) (by simp) (fun f hf => (List.pairwise_cons.mp hcons).1 f hf)]
  refine ofNat_eq_of_window hl ?_
  simp [assemble, Nat.mul_div_cancel _ hpos]

theorem assemble_filter_add (p : Nat × Nat × Nat → Bool) (fs : List (Nat × Nat × Nat)) :
    assemble (fs.filter p) + assemble (fs.filter fun f => !p f) = assemble fs := by
  induction fs with
  | nil => rfl
  | cons f fs ih =>
    obtain ⟨o, z, v⟩ := f
    cases hp : p (o, z, v)
    · rw [List.filter_cons_of_neg (by simp [hp]), List.filter_cons_of_pos (by simp [hp])]
      simp only [assemble]
      omega
    · rw [List.filter_cons_of_pos (by simp [hp]), List.filter_cons_of_neg (by simp [hp])]
      simp only [assemble]
      omega

/-- What no field covers reads zero. -/
theorem record_gap {fs : List (Nat × Nat × Nat)} {N s l o z : Nat} (hs : s = 8 * o) (hl : l = 8 * z) (hN : s + l ≤ N)
    (hrise : FieldsRise fs) (hgap : ∀ f ∈ fs, f.1 + f.2.1 ≤ o ∨ o + z ≤ f.1) :
    (BitVec.ofNat N (assemble fs)).extractLsb' s l = 0 := by
  have hlow : ∀ f ∈ fs.filter (fun f => decide (f.1 + f.2.1 ≤ o)), f.1 + f.2.1 ≤ o := fun f hf => by
    simpa using (List.mem_filter.mp hf).2
  have hhigh : ∀ f ∈ fs.filter (fun f => !decide (f.1 + f.2.1 ≤ o)), o + z ≤ f.1 := fun f hf => by
    obtain ⟨hmem, hp⟩ := List.mem_filter.mp hf
    exact (hgap f hmem).resolve_left (by simpa using hp)
  have hsplit : FieldsRise (fs.filter (fun f => decide (f.1 + f.2.1 ≤ o)) ++ [] ++
      fs.filter fun f => !decide (f.1 + f.2.1 ≤ o)) := by
    rw [List.append_nil]
    refine List.pairwise_append.mpr ⟨hrise.filter _, hrise.filter _, fun f hf g hg => ?_⟩
    have := hlow f hf
    have := hhigh g hg
    omega
  have hsum := assemble_filter_add (fun f => decide (f.1 + f.2.1 ≤ o)) fs
  rw [← hsum, ← assemble_append]
  rw [← List.append_nil (fs.filter _), record_run (mid := []) hs hl hN hsplit rfl hlow (by simp) (by simp) hhigh]
  simp [assemble]

/-! ### The records of the formats -/

theorem bit_eq (b : Bool) (l : Nat) : BitVec.ofNat l (bit b) = if b then 1 else 0 := by
  cases b <;> rfl

section
variable (cmd : Command) (head : Nat) (phase : Bool)

/-- The fields of Table 9.4. -/
def completionFields : List (Nat × Nat × Nat) :=
  [(0, 2, Rec.commandId cmd.record), (2, 2, head), (4, 1, cmd.sr.val), (5, 1, cmd.worst.code), (6, 1, cmd.failing.getD 0),
   (7, 1, bit cmd.failing.isSome), (8, 4, cmd.result.toNat), (15, 1, bit phase)]

theorem completionRecord_eq : completionRecord cmd head phase = BitVec.ofNat 128 (assemble (completionFields cmd head phase)) :=
  rfl

theorem completionFields_rise : FieldsRise (completionFields cmd head phase) := by
  simp [FieldsRise, completionFields]

theorem completionRecord_field {s l o z v : Nat} (hs : s = 8 * o) (hl : l = 8 * z) (hN : s + l ≤ 128)
    (hmem : (o, z, v) ∈ completionFields cmd head phase) :
    (completionRecord cmd head phase).extractLsb' s l = BitVec.ofNat l v :=
  record_field hs hl hN (completionFields_rise cmd head phase) hmem

theorem completionRecord_layout :
    (completionRecord cmd head phase).extractLsb' 0 16 = BitVec.ofNat 16 (Rec.commandId cmd.record) ∧
    (completionRecord cmd head phase).extractLsb' 16 16 = BitVec.ofNat 16 head ∧
    (completionRecord cmd head phase).extractLsb' 32 8 = BitVec.ofNat 8 cmd.sr.val ∧
    (completionRecord cmd head phase).extractLsb' 40 8 = BitVec.ofNat 8 cmd.worst.code ∧
    (completionRecord cmd head phase).extractLsb' 48 8 = BitVec.ofNat 8 (cmd.failing.getD 0) ∧
    (completionRecord cmd head phase).extractLsb' 56 8 = (if cmd.failing.isSome then 1 else 0) ∧
    (completionRecord cmd head phase).extractLsb' 64 32 = cmd.result ∧
    (completionRecord cmd head phase).extractLsb' 96 24 = 0 ∧
    (completionRecord cmd head phase).extractLsb' 120 8 = (if phase then 1 else 0) := by
  have hfield := fun {s l o z v} => completionRecord_field cmd head phase (s := s) (l := l) (o := o) (z := z) (v := v)
  refine ⟨hfield (o := 0) (z := 2) rfl rfl (by decide) (by simp [completionFields]),
    hfield (o := 2) (z := 2) rfl rfl (by decide) (by simp [completionFields]),
    hfield (o := 4) (z := 1) rfl rfl (by decide) (by simp [completionFields]),
    hfield (o := 5) (z := 1) rfl rfl (by decide) (by simp [completionFields]),
    hfield (o := 6) (z := 1) rfl rfl (by decide) (by simp [completionFields]), ?_, ?_, ?_, ?_⟩
  · rw [hfield (o := 7) (z := 1) (v := bit cmd.failing.isSome) rfl rfl (by decide) (by simp [completionFields]), bit_eq]
  · rw [hfield (o := 8) (z := 4) (v := cmd.result.toNat) rfl rfl (by decide) (by simp [completionFields]),
      BitVec.ofNat_toNat, BitVec.setWidth_eq]
  · exact record_gap (o := 12) (z := 3) rfl rfl (by decide) (completionFields_rise cmd head phase)
      (by simp)
  · rw [hfield (o := 15) (z := 1) (v := bit phase) rfl rfl (by decide) (by simp [completionFields]), bit_eq]

end

/-! ### Notices -/

/-- The fields of Table 9.7 ahead of the first occurrence's record. -/
def noticeHeader (n : Notice) : List (Nat × Nat × Nat) := [(0, 1, n.faultClass.val), (2, 2, n.count)]

/-- Every field of a first-occurrence record stands behind the header and inside the record. -/
theorem FaultRecord.fields_inside (r : FaultRecord) : ∀ f ∈ r.fields, 8 ≤ f.1 ∧ f.1 + f.2.1 ≤ 64 := by
  cases r <;> simp [FaultRecord.fields]

theorem FaultRecord.fields_rise (r : FaultRecord) : FieldsRise r.fields := by
  cases r <;> simp [FaultRecord.fields, FieldsRise]

/-- The fields of the first occurrence, none without one. -/
def Notice.firstFields (n : Notice) : List (Nat × Nat × Nat) :=
  match n.first with
  | some r => r.fields
  | none => []

theorem Notice.firstFields_inside (n : Notice) : ∀ f ∈ n.firstFields, 8 ≤ f.1 ∧ f.1 + f.2.1 ≤ 64 := by
  unfold Notice.firstFields
  cases n.first with
  | none => simp
  | some r => exact r.fields_inside

theorem Notice.firstFields_rise (n : Notice) : FieldsRise n.firstFields := by
  unfold Notice.firstFields
  cases n.first with
  | none => exact List.Pairwise.nil
  | some r => exact r.fields_rise

theorem noticeRecord_eq (n : Notice) : noticeRecord n = BitVec.ofNat 512 (assemble (noticeHeader n ++ n.firstFields)) := by
  unfold noticeRecord Notice.firstFields
  cases n.first <;> rfl

theorem noticeRecord_fields_rise (n : Notice) : FieldsRise (noticeHeader n ++ n.firstFields) := by
  refine List.pairwise_append.mpr ⟨by simp [noticeHeader], n.firstFields_rise, fun f hf g hg => ?_⟩
  have hg := (n.firstFields_inside g hg).1
  simp only [noticeHeader, List.mem_cons, List.not_mem_nil, or_false] at hf
  rcases hf with rfl | rfl
  · dsimp only
    omega
  · dsimp only
    omega

theorem noticeRecord_first (n : Notice) :
    (noticeRecord n).extractLsb' 64 448 = BitVec.ofNat 448 (assemble n.firstFields / 256 ^ 8) := by
  rw [noticeRecord_eq]
  refine record_run (o := 8) (z := 56) (low := noticeHeader n) (high := []) rfl rfl (by decide) (noticeRecord_fields_rise n)
    (by simp) (by simp [noticeHeader]) (fun f hf => (n.firstFields_inside f hf).1)
    (fun f hf => (n.firstFields_inside f hf).2) (by simp)

theorem noticeRecord_of_first {n : Notice} {r : FaultRecord} (h : n.first = some r) {x : Nat}
    (hx : assemble r.fields = x * 256 ^ 8) : (noticeRecord n).extractLsb' 64 448 = BitVec.ofNat 448 x := by
  have hfields : n.firstFields = r.fields := by
    rw [Notice.firstFields, h]
  rw [noticeRecord_first, hfields, hx, Nat.mul_div_cancel _ (Nat.pow_pos (by decide))]

theorem Status.code_lt (st : Status) : st.code < 256 := by
  cases st <;> decide

theorem noticeRecord_layout (n : Notice) :
    (noticeRecord n).extractLsb' 0 16 = BitVec.ofNat 16 n.faultClass.val ∧
    (noticeRecord n).extractLsb' 16 16 = BitVec.ofNat 16 n.count ∧ (noticeRecord n).extractLsb' 32 32 = 0 ∧
    (n.first = none → (noticeRecord n).extractLsb' 64 448 = 0) ∧
    (∀ S w lost, n.first = some (.integrity S w lost) →
      (noticeRecord n).extractLsb' 64 448 = BitVec.ofNat 448 (S.val + 2 ^ 16 * w.val + 2 ^ 24 * bit lost)) ∧
    (∀ k m x, n.first = some (.ring k m x) →
      (noticeRecord n).extractLsb' 64 448 = BitVec.ofNat 448 (k.code + 2 ^ 8 * m.val + 2 ^ 16 * x.code)) ∧
    (∀ x m, n.first = some (.link x m) → m ≤ 32 →
      (noticeRecord n).extractLsb' 64 448 = BitVec.ofNat 448 (x.code + 2 ^ 8 * m)) ∧
    (∀ b k st, n.first = some (.media b k st) → b < 2 ^ 36 →
      (noticeRecord n).extractLsb' 64 448 = BitVec.ofNat 448 (b + 2 ^ 64 * k.code + 2 ^ 72 * st.code)) ∧
    (∀ a k m id, n.first = some (.hostBus a k m id) → a < 2 ^ 64 → id < 65536 →
      (noticeRecord n).extractLsb' 64 448 =
        BitVec.ofNat 448 (a + 2 ^ 64 * k.code + 2 ^ 72 * m.val + 2 ^ 80 * id)) := by
  have hrise := noticeRecord_fields_rise n
  refine ⟨?_, ?_, ?_, fun hnone => ?_, fun S w lost h => noticeRecord_of_first h ?_,
    fun k m x h => noticeRecord_of_first h ?_, fun x m h hm => noticeRecord_of_first h ?_,
    fun b k st h hb => noticeRecord_of_first h ?_, fun a k m id h ha hid => noticeRecord_of_first h ?_⟩
  · have hclass := n.faultClass.isLt
    rw [noticeRecord_eq, record_run (o := 0) (z := 2) (low := []) (mid := [(0, 1, n.faultClass.val)])
      (high := [(2, 2, n.count)] ++ n.firstFields) rfl rfl (by decide) hrise rfl (by simp) (by simp) (by simp)]
    · simp only [assemble]
      congr 1
      omega
    · intro f hf
      rcases List.mem_append.mp hf with hf | hf
      · simp_all
      · have := (n.firstFields_inside f hf).1
        omega
  · rw [noticeRecord_eq]
    exact record_field (o := 2) (z := 2) rfl rfl (by decide) hrise (by simp [noticeHeader])
  · rw [noticeRecord_eq]
    refine record_gap (o := 4) (z := 4) rfl rfl (by decide) hrise fun f hf => ?_
    rcases List.mem_append.mp hf with hf | hf
    · simp only [noticeHeader, List.mem_cons, List.not_mem_nil, or_false] at hf
      rcases hf with rfl | rfl <;> simp
    · exact .inr (n.firstFields_inside f hf).1
  · rw [noticeRecord_first, Notice.firstFields, hnone]
    rfl
  · have hS := S.isLt
    have hw := w.isLt
    have hlost : bit lost < 256 := by cases lost <;> decide
    simp only [FaultRecord.fields, assemble]
    norm_num
    omega
  · have hm := m.isLt
    have hk : k.code < 256 := by cases k <;> decide
    have hx : x.code < 256 := by cases x <;> decide
    simp only [FaultRecord.fields, assemble]
    norm_num
    omega
  · have hx : x.code < 256 := by cases x <;> decide
    simp only [FaultRecord.fields, assemble]
    norm_num
    omega
  · have hk : k.code < 256 := by cases k <;> decide
    have hst := st.code_lt
    simp only [FaultRecord.fields, assemble]
    norm_num
    omega
  · have hk : k.code < 256 := by cases k <;> decide
    have hm := m.isLt
    simp only [FaultRecord.fields, assemble]
    norm_num
    omega

/-! ### Geometry -/

/-- The figures of the part, bytes 9 to 43 of Table 9.9. -/
def partFigures : List (Nat × Nat × Nat) :=
  [(9, 1, 8), (10, 2, 4096), (12, 4, 32768), (16, 4, 4096), (20, 2, 128), (22, 1, 8), (24, 2, 1024), (26, 2, 256),
   (28, 1, 16), (29, 1, 16), (30, 2, 4096), (32, 1, 2), (33, 1, 8), (34, 1, 32), (35, 1, 16), (36, 1, 4), (37, 1, 32),
   (38, 1, 16), (39, 1, 4), (40, 1, 255), (41, 1, 6)]

/-- What goes by the state ahead of the figures. -/
def State.linkFields (s : State) : List (Nat × Nat × Nat) :=
  [(0, 8, s.media.capacity), (8, 1, bit (s.media.link == .up))]

/-- What goes by the state behind them. -/
def State.settingFields (s : State) : List (Nat × Nat × Nat) :=
  [(44, 4, s.writeBack.highMark), (48, 4, s.writeBack.lowMark), (52, 4, s.media.timeout), (56, 1, s.media.retryLimit)]

theorem State.geometryRecord_eq (s : State) :
    s.geometryRecord = BitVec.ofNat 512 (assemble (s.linkFields ++ partFigures ++ s.settingFields)) :=
  rfl

theorem State.geometryRecord_fields_rise (s : State) : FieldsRise (s.linkFields ++ partFigures ++ s.settingFields) := by
  simp [FieldsRise, State.linkFields, partFigures, State.settingFields]

theorem State.geometryRecord_layout (s : State) :
    s.geometryRecord.extractLsb' 0 64 = BitVec.ofNat 64 s.media.capacity ∧
    s.geometryRecord.extractLsb' 64 8 = (if s.media.link = .up then 1 else 0) ∧
    s.geometryRecord.extractLsb' 72 280 = BitVec.ofNat 280 (assemble partFigures / 256 ^ 9) ∧
    s.geometryRecord.extractLsb' 352 32 = BitVec.ofNat 32 s.writeBack.highMark ∧
    s.geometryRecord.extractLsb' 384 32 = BitVec.ofNat 32 s.writeBack.lowMark ∧
    s.geometryRecord.extractLsb' 416 32 = BitVec.ofNat 32 s.media.timeout ∧
    s.geometryRecord.extractLsb' 448 8 = BitVec.ofNat 8 s.media.retryLimit ∧
    s.geometryRecord.extractLsb' 456 56 = 0 := by
  have hrise := s.geometryRecord_fields_rise
  rw [s.geometryRecord_eq]
  refine ⟨record_field (o := 0) (z := 8) rfl rfl (by decide) hrise (by simp [State.linkFields]), ?_,
    record_run (o := 9) (z := 35) rfl rfl (by decide) hrise rfl (by simp [State.linkFields]) (by simp [partFigures])
      (by simp [partFigures]) (by simp [State.settingFields]),
    record_field (o := 44) (z := 4) rfl rfl (by decide) hrise (by simp [State.settingFields]),
    record_field (o := 48) (z := 4) rfl rfl (by decide) hrise (by simp [State.settingFields]),
    record_field (o := 52) (z := 4) rfl rfl (by decide) hrise (by simp [State.settingFields]),
    record_field (o := 56) (z := 1) rfl rfl (by decide) hrise (by simp [State.settingFields]),
    record_gap (o := 57) (z := 7) rfl rfl (by decide) hrise
      (by simp [State.linkFields, partFigures, State.settingFields])⟩
  rw [record_field (o := 8) (z := 1) (v := bit (s.media.link == .up)) rfl rfl (by decide) hrise
    (by simp [State.linkFields]), bit_eq]
  simp

/-! ### Snapshots -/

section
variable (cs : CacheSet) (S : SetId)

theorem CacheSet.headerFields_inside : ∀ f ∈ cs.headerFields S, f.1 + f.2.1 ≤ 8 := by
  simp [CacheSet.headerFields]

theorem CacheSet.headerFields_rise : FieldsRise (cs.headerFields S) := by
  simp [FieldsRise, CacheSet.headerFields]

theorem CacheSet.wayFields_inside (w : WayId) :
    ∀ f ∈ cs.wayFields w, 32 + 28 * w.val ≤ f.1 ∧ f.1 + f.2.1 ≤ 32 + 28 * w.val + 18 := by
  simp only [CacheSet.wayFields, List.mem_cons, List.not_mem_nil, or_false]
  rintro f (rfl | rfl | rfl | rfl | rfl | rfl | rfl | rfl) <;> dsimp only <;> omega

theorem CacheSet.wayFields_rise (w : WayId) : FieldsRise (cs.wayFields w) := by
  simp [FieldsRise, CacheSet.wayFields]

/-- The fields of a snapshot: the header, then the ways in order. -/
def CacheSet.snapshotFields : List (Nat × Nat × Nat) := cs.headerFields S ++ (List.finRange 8).flatMap cs.wayFields

theorem CacheSet.snapshotFields_rise : FieldsRise (cs.snapshotFields S) := by
  refine List.pairwise_append.mpr ⟨cs.headerFields_rise S, ?_, fun f hf g hg => ?_⟩
  · refine List.pairwise_flatMap.mpr ⟨fun w _ => cs.wayFields_rise w, ?_⟩
    refine (List.pairwise_lt_finRange 8).imp fun {v w} hvw f hf g hg => ?_
    have hend := (cs.wayFields_inside v f hf).2
    have hbegin := (cs.wayFields_inside w g hg).1
    have : v.val < w.val := hvw
    omega
  · obtain ⟨w, -, hg⟩ := List.mem_flatMap.mp hg
    have hend := cs.headerFields_inside S f hf
    have hbegin := (cs.wayFields_inside w g hg).1
    omega

theorem CacheSet.snapshotRecord_header {s l o z v : Nat} (hs : s = 8 * o) (hl : l = 8 * z) (hN : s + l ≤ 2048)
    (hmem : (o, z, v) ∈ cs.headerFields S) : (cs.snapshotRecord S).extractLsb' s l = BitVec.ofNat l v :=
  record_field hs hl hN (cs.snapshotFields_rise S) (List.mem_append_left _ hmem)

theorem CacheSet.snapshotRecord_way {w : WayId} {s l o z v : Nat} (hs : s = 8 * o) (hl : l = 8 * z) (hN : s + l ≤ 2048)
    (hmem : (o, z, v) ∈ cs.wayFields w) : (cs.snapshotRecord S).extractLsb' s l = BitVec.ofNat l v :=
  record_field hs hl hN (cs.snapshotFields_rise S)
    (List.mem_append_right _ (List.mem_flatMap.mpr ⟨w, List.mem_finRange w, hmem⟩))

/-- Behind the header, and behind each way's fields, the record is zero. -/
theorem CacheSet.snapshotRecord_gap {s l o z : Nat} (hs : s = 8 * o) (hl : l = 8 * z) (hN : s + l ≤ 2048)
    (hheader : 8 ≤ o) (hways : ∀ v : WayId, o + z ≤ 32 + 28 * v.val ∨ 32 + 28 * v.val + 18 ≤ o) :
    (cs.snapshotRecord S).extractLsb' s l = 0 := by
  refine record_gap hs hl hN (cs.snapshotFields_rise S) fun f hf => ?_
  rcases List.mem_append.mp hf with hf | hf
  · exact .inl ((cs.headerFields_inside S f hf).trans hheader)
  · obtain ⟨v, -, hf⟩ := List.mem_flatMap.mp hf
    have := cs.wayFields_inside v f hf
    have := hways v
    omega

/-- The flags byte of a way, with the epoch's bit as a test. -/
theorem epoch_flag (e : Option Epoch) : (match e with
    | some e => e.toNat
    | none => 0) = bit (e == some .one) := by
  rcases e with - | (_ | _) <;> rfl

theorem CacheSet.snapshotRecord_wayLayout (w : WayId) {o : Nat} (ho : o = 256 + 224 * w.val) {r : BitVec 2048}
    (hr : r = cs.snapshotRecord S) :
    r.extractLsb' o 8 = (match cs.ways[w].state with
      | .invalid => 0
      | .filling _ .media => 1
      | .filling _ .host => 2
      | .clean _ => 3
      | .dirty _ _ => 4
      | .cleaning _ _ => 5
      | .redirty _ _ _ => 6) ∧
    r.extractLsb' (o + 8) 8 = BitVec.ofNat 8 (bit cs.ways[w].state.block.isSome + 2 * bit cs.ways[w].exclusive +
      4 * bit cs.ways[w].cleanWanted + 8 * bit cs.ways[w].state.epoch.isSome +
      16 * bit (cs.ways[w].state.epoch == some .one)) ∧
    r.extractLsb' (o + 16) 8 = BitVec.ofNat 8 cs.ways[w].pins ∧
    r.extractLsb' (o + 24) 8 = BitVec.ofNat 8 (cs.recency.idxOf w) ∧
    r.extractLsb' (o + 32) 64 = BitVec.ofNat 64 (cs.ways[w].state.block.getD 0) ∧
    r.extractLsb' (o + 96) 16 = BitVec.ofNat 16 cs.ways[w].readers ∧
    r.extractLsb' (o + 112) 16 = BitVec.ofNat 16 cs.ways[w].accessQueue.length ∧
    r.extractLsb' (o + 128) 16 = BitVec.ofNat 16 cs.ways[w].watchers.length ∧
    r.extractLsb' (o + 144) 80 = 0 := by
  have hw := w.isLt
  subst hr
  have hfield := fun {s l p z v} hp => cs.snapshotRecord_way S (w := w) (s := s) (l := l) (o := p) (z := z) (v := v) hp
  refine ⟨?_, ?_, hfield (p := 32 + 28 * w.val + 2) (z := 1) (by omega) rfl (by omega) (by simp [CacheSet.wayFields]),
    hfield (p := 32 + 28 * w.val + 3) (z := 1) (by omega) rfl (by omega) (by simp [CacheSet.wayFields, CacheSet.recencyPosition]),
    hfield (p := 32 + 28 * w.val + 4) (z := 8) (by omega) rfl (by omega) (by simp [CacheSet.wayFields]),
    hfield (p := 32 + 28 * w.val + 12) (z := 2) (by omega) rfl (by omega) (by simp [CacheSet.wayFields]),
    hfield (p := 32 + 28 * w.val + 14) (z := 2) (by omega) rfl (by omega) (by simp [CacheSet.wayFields]),
    hfield (p := 32 + 28 * w.val + 16) (z := 2) (by omega) rfl (by omega) (by simp [CacheSet.wayFields]),
    cs.snapshotRecord_gap S (o := 32 + 28 * w.val + 18) (z := 10) (by omega) rfl (by omega) (by omega) fun v => by omega⟩
  · rw [hfield (p := 32 + 28 * w.val) (z := 1) (v := cs.ways[w].state.code) (by omega) rfl (by omega)
      (by simp [CacheSet.wayFields])]
    generalize cs.ways[w].state = st
    rcases st with - | ⟨_, - | -⟩ | _ | _ | _ | _ <;> rfl
  · rw [← epoch_flag]
    refine hfield (p := 32 + 28 * w.val + 1) (z := 1) (by omega) rfl (by omega) ?_
    simp [CacheSet.wayFields] <;> rfl

end

theorem CacheSet.snapshotRecord_headerLayout (cs : CacheSet) (S : SetId) {r : BitVec 2048} (hr : r = cs.snapshotRecord S) :
    r.extractLsb' 0 16 = BitVec.ofNat 16 S.val ∧
    r.extractLsb' 16 8 = BitVec.ofNat 8 (bit cs.fence.failedWay.isSome + 2 * bit cs.fence.lost +
      4 * bit cs.fence.releasing.isSome + 8 * bit cs.fence.failedWay.isSome) ∧
    (cs.fence.failedWay = none → r.extractLsb' 24 8 = 0) ∧
    (∀ w, cs.fence.failedWay = some w → r.extractLsb' 24 8 = BitVec.ofNat 8 w.val) ∧
    r.extractLsb' 32 8 = BitVec.ofNat 8 cs.fence.salvaged ∧
    r.extractLsb' 40 8 = BitVec.ofNat 8 cs.fence.salvageFailures ∧
    r.extractLsb' 48 16 = BitVec.ofNat 16 cs.waitList.length ∧ r.extractLsb' 64 192 = 0 := by
  subst hr
  have hfield := fun {s l o z v} hs => cs.snapshotRecord_header S (s := s) (l := l) (o := o) (z := z) (v := v) hs
  refine ⟨hfield (o := 0) (z := 2) rfl rfl (by decide) (by simp [CacheSet.headerFields]),
    hfield (o := 2) (z := 1) rfl rfl (by decide) (by simp [CacheSet.headerFields]), fun hnone => ?_, fun w hw => ?_,
    hfield (o := 4) (z := 1) rfl rfl (by decide) (by simp [CacheSet.headerFields]),
    hfield (o := 5) (z := 1) rfl rfl (by decide) (by simp [CacheSet.headerFields]),
    hfield (o := 6) (z := 2) rfl rfl (by decide) (by simp [CacheSet.headerFields]),
    cs.snapshotRecord_gap S (o := 8) (z := 24) rfl rfl (by decide) (by decide) fun v => by omega⟩
  · exact hfield (o := 3) (z := 1) (v := 0) rfl rfl (by decide) (by simp [CacheSet.headerFields, hnone])
  · exact hfield (o := 3) (z := 1) rfl rfl (by decide) (by simp [CacheSet.headerFields, hw])

/-! ### Messages of the media link -/

theorem requestHeader_layout (i : SlotId) {attempt block : Nat} (hattempt : attempt < 8) (hblock : block < 2 ^ 36) :
    requestHeader .fill i attempt block = BitVec.ofNat 128 (0x01 + 2 ^ 8 * (i.val + 2 ^ 5 * attempt) + 2 ^ 64 * block) ∧
    requestHeader .clean i attempt block =
      BitVec.ofNat 128 (0x02 + 2 ^ 8 * (i.val + 2 ^ 5 * attempt) + 2 ^ 64 * block) := by
  have hi := i.isLt
  refine ⟨congrArg (BitVec.ofNat 128) ?_, congrArg (BitVec.ofNat 128) ?_⟩
  · simp only [assemble, tagByte]
    norm_num
    omega
  · simp only [assemble, tagByte]
    norm_num
    omega

/-- The little-endian bytes of a 64-bit number. -/
theorem leNat_bytes (number : BitVec 64) :
    leNat ((List.range 8).map fun k => number.extractLsb' (8 * k) 8) = number.toNat := by
  have h := number.isLt
  rw [show List.range 8 = [0, 1, 2, 3, 4, 5, 6, 7] from rfl]
  simp only [List.map, leNat, BitVec.extractLsb'_toNat, Nat.shiftRight_eq_div_pow]
  norm_num
  omega

section
variable {b₀ b₁ b₂ b₃ b₄ b₅ b₆ b₇ : Byte} {block rest : List Byte}

theorem messageNumber_append (hblock : block.length = 8) :
    messageNumber ([b₀, b₁, b₂, b₃, b₄, b₅, b₆, b₇] ++ block ++ rest) = leNat block := by
  have hdrop : ([b₀, b₁, b₂, b₃, b₄, b₅, b₆, b₇] ++ block ++ rest).drop 8 = block ++ rest := by simp
  rw [messageNumber, hdrop, ← hblock, List.take_left]

theorem parseMessage_response_data (htype : b₀ = 3) (hdata : b₃.toNat % 2 = 1) (hblock : block.length = 8)
    (hrest : rest.length = 4096) :
    parseMessage ([b₀, b₁, b₂, b₃, b₄, b₅, b₆, b₇] ++ block ++ rest) =
      .response (Fin.ofNat 32 (b₁.toNat % 32)) (b₁.toNat / 32) (leNat block) b₂.toNat (some rest) := by
  have hlength : ([b₀, b₁, b₂, b₃, b₄, b₅, b₆, b₇] ++ block ++ rest).length = 4112 := by
    simp [hblock, hrest]
  have hdrop : ([b₀, b₁, b₂, b₃, b₄, b₅, b₆, b₇] ++ block ++ rest).drop 16 = rest :=
    List.drop_left' (by simp [hblock])
  rw [parseMessage, if_pos ⟨by rw [htype]; rfl, hdata, hlength⟩, hdrop, messageNumber_append hblock]
  rfl

theorem parseMessage_response (htype : b₀ = 3) (hdata : b₃.toNat % 2 = 0) (hblock : block.length = 8) :
    parseMessage ([b₀, b₁, b₂, b₃, b₄, b₅, b₆, b₇] ++ block) =
      .response (Fin.ofNat 32 (b₁.toNat % 32)) (b₁.toNat / 32) (leNat block) b₂.toNat none := by
  have hlength : ([b₀, b₁, b₂, b₃, b₄, b₅, b₆, b₇] ++ block).length = 16 := by
    simp [hblock]
  have hnumber : messageNumber ([b₀, b₁, b₂, b₃, b₄, b₅, b₆, b₇] ++ block) = leNat block := by
    simpa using messageNumber_append (rest := []) hblock
  rw [parseMessage, if_neg (by rw [hlength]; simp), if_pos ⟨by rw [htype]; rfl, hdata, hlength⟩, hnumber]
  rfl

theorem parseMessage_announce (htype : b₀ = 4) (hblock : block.length = 8) :
    parseMessage ([b₀, b₁, b₂, b₃, b₄, b₅, b₆, b₇] ++ block) = .announce (leNat block) := by
  have hlength : ([b₀, b₁, b₂, b₃, b₄, b₅, b₆, b₇] ++ block).length = 16 := by
    simp [hblock]
  have hnumber : messageNumber ([b₀, b₁, b₂, b₃, b₄, b₅, b₆, b₇] ++ block) = leNat block := by
    simpa using messageNumber_append (rest := []) hblock
  have hbyte : byteAt ([b₀, b₁, b₂, b₃, b₄, b₅, b₆, b₇] ++ block) 0 = 4 := by
    rw [htype]
    rfl
  rw [parseMessage, hbyte, if_neg (by simp), if_neg (by simp), if_pos ⟨rfl, hlength⟩, hnumber]

end

/-- A message whose type, data flag and length fit no form is discarded. -/
theorem parseMessage_discarded {m : List Byte} (hdata : ¬(byteAt m 0 = 3 ∧ byteAt m 3 % 2 = 1 ∧ m.length = 4112))
    (hplain : ¬(byteAt m 0 = 3 ∧ byteAt m 3 % 2 = 0 ∧ m.length = 16)) (hannounce : ¬(byteAt m 0 = 4 ∧ m.length = 16)) :
    parseMessage m = .discarded := by
  rw [parseMessage, if_neg hdata, if_neg hplain, if_neg hannounce]

/-- The tag byte's slot and attempt. -/
theorem tag_parts {i : SlotId} {attempt : Nat} {tag : Byte} (htag : tag.toNat = i.val + 32 * attempt) :
    (Fin.ofNat 32 (tag.toNat % 32) : SlotId) = i ∧ tag.toNat / 32 = attempt := by
  have hi := i.isLt
  constructor
  · apply Fin.ext
    simp only [Fin.ofNat]
    omega
  · omega

theorem toNat_ne_of_ne {x y : Byte} (h : x ≠ y) : x.toNat ≠ y.toNat := fun e => h (BitVec.eq_of_toNat_eq e)

/-- Settles O22: each field is read back from the number its record is assembled to, and each message is judged by its bytes. -/
theorem completionRecordLayout : Obligations.CompletionRecordLayout := by
  unfold Obligations.CompletionRecordLayout
  refine ⟨fun cmd head phase _ _ => completionRecord_layout cmd head phase, fun n _ => ?_, fun s _ _ => ?_,
    fun cs S r hr => ?_, fun i attempt block hattempt hblock => requestHeader_layout i hattempt hblock, ?_⟩
  · obtain ⟨hclass, hcount, hzero, hnone, hintegrity, hring, hlink, hmedia, hhost⟩ := noticeRecord_layout n
    refine ⟨hclass, hcount, hzero, hnone, hintegrity, fun k m x h => ?_, fun x m h hm => ?_, fun b k st h hb => ?_,
      fun a k m id h ha hid => ?_⟩
    · rw [hring k m x h]
      cases k <;> cases x <;> rfl
    · rw [hlink x m h hm]
      cases x <;> rfl
    · rw [hmedia b k st h hb]
      cases k <;> rfl
    · rw [hhost a k m id h ha hid]
      cases k <;> rfl
  · obtain ⟨hcapacity, hlink, hfigures, hhigh, hlow, htimeout, hretry, hzero⟩ := s.geometryRecord_layout
    refine ⟨hcapacity, hlink, hfigures.trans ?_, hhigh, hlow, htimeout, hretry, hzero⟩
    rfl
  · obtain ⟨hset, hflags, hnone, hway, hsalvaged, hfailures, hwaiting, hzero⟩ := cs.snapshotRecord_headerLayout S hr
    exact ⟨hset, hflags, hnone, hway, hsalvaged, hfailures, hwaiting, hzero,
      fun w o ho => cs.snapshotRecord_wayLayout S w ho hr⟩
  · rintro i attempt tag result present x2 x4 x5 x6 x7 number block data hattempt htag hdata hblock
    have hlength : block.length = 8 := by simp [hblock]
    have hnumber : leNat block = number.toNat := by rw [hblock, leNat_bytes]
    obtain ⟨hslot, hpart⟩ := tag_parts htag
    refine ⟨fun hpresent => ?_, fun habsent => ?_, fun habsent => ?_, fun hpresent => ?_, ?_, ?_, fun type rest h3 h4 => ?_⟩
    · rw [parseMessage_response_data rfl hpresent hlength hdata, hslot, hpart, hnumber]
    · rw [parseMessage_response rfl habsent hlength, hslot, hpart, hnumber]
    · refine parseMessage_discarded ?_ ?_ ?_
      · rintro ⟨-, hflag, -⟩
        exact absurd (habsent.symm.trans hflag) (by decide)
      · rintro ⟨-, -, hlen⟩
        simp [hlength, hdata] at hlen
      · rintro ⟨-, hlen⟩
        simp [hlength, hdata] at hlen
    · refine parseMessage_discarded ?_ ?_ ?_
      · rintro ⟨-, -, hlen⟩
        simp [hlength] at hlen
      · rintro ⟨-, hflag, -⟩
        exact absurd (hpresent.symm.trans hflag) (by decide)
      · rintro ⟨htype, -⟩
        exact absurd (show (3 : Nat) = 4 from htype) (by decide)
    · rw [parseMessage_announce rfl hlength, hnumber]
    · refine parseMessage_discarded ?_ ?_ ?_
      · rintro ⟨htype, -⟩
        exact absurd (show (4 : Nat) = 3 from htype) (by decide)
      · rintro ⟨htype, -⟩
        exact absurd (show (4 : Nat) = 3 from htype) (by decide)
      · rintro ⟨-, hlen⟩
        simp [hlength, hdata] at hlen
    · have hthree : byteAt (type :: rest) 0 ≠ 3 := toNat_ne_of_ne h3
      have hfour : byteAt (type :: rest) 0 ≠ 4 := toNat_ne_of_ne h4
      exact parseMessage_discarded (fun h => hthree h.1) (fun h => hthree h.1) fun h => hfour h.1

end Sys2Proof.Machine
end

section
/-! PROOFS. Lookups (R4): what a lookup does in each case, and O47 on the lookups that hit. -/

namespace Sys2Proof.Machine

/-! ### The parts of a lookup -/

section
variable {s : State} {m : LookupMode} {b : Bop}

theorem State.lookupBop_of_fenced (h : s.isFenced (setOf b.block) = true) :
    s.lookupBop m b = (s.completeBop b .fenced, .ended false) := by
  rw [State.lookupBop, if_pos h]

theorem State.lookupBop_of_bad {w : WayId} (hfence : s.isFenced (setOf b.block) = false)
    (hbad : (s.cacheSet (setOf b.block)).badWay = some w) :
    s.lookupBop m b = ((s.fenceSet (setOf b.block) w).completeBop b .fenced, .ended false) := by
  simp only [State.lookupBop, hfence, hbad, if_neg Bool.false_ne_true]

variable (hfence : s.isFenced (setOf b.block) = false) (hgood : (s.cacheSet (setOf b.block)).badWay = none)
include hfence hgood

theorem State.lookupBop_of_miss (hmiss : (s.cacheSet (setOf b.block)).hitWay b.block = none) :
    s.lookupBop m b = s.lookupMiss m b := by
  simp only [State.lookupBop, hfence, hgood, hmiss, if_neg Bool.false_ne_true]

variable {w : WayId} (hhit : (s.cacheSet (setOf b.block)).hitWay b.block = some w)
include hhit

theorem State.lookupBop_of_unpin (hk : b.kind = .unpin) : s.lookupBop m b = s.unpinHit ⟨setOf b.block, w⟩ b := by
  simp only [State.lookupBop, hfence, hgood, hhit, hk, if_neg Bool.false_ne_true]

theorem State.lookupBop_of_flush (hk : b.kind = .flush) : s.lookupBop m b = s.flushHit ⟨setOf b.block, w⟩ b := by
  simp only [State.lookupBop, hfence, hgood, hhit, hk, if_neg Bool.false_ne_true]

theorem State.lookupBop_of_queued (hk : b.kind = .read ∨ b.kind = .write ∨ b.kind = .pin ∨ b.kind = .discard) :
    s.lookupBop m b = s.queuedHit ⟨setOf b.block, w⟩ b := by
  rcases hk with hk | hk | hk | hk <;>
    simp only [State.lookupBop, hfence, hgood, hhit, hk, if_neg Bool.false_ne_true]

end

/-! ### Lookups that hit -/

theorem LineState.isStable_of_isFilling {st : LineState} (h : st.isFilling = true) : st.isStable = false := by
  cases st with
  | filling _ _ => rfl
  | invalid | clean _ | dirty _ _ | cleaning _ _ | redirty _ _ _ => cases h

section
variable {s : State} {l : LineId} {b : Bop}

theorem State.queuedHit_of_unstable (h : (s.line l).state.isStable = false) :
    s.queuedHit l b = (s.setAccessQueue l ((s.line l).accessQueue ++ [b]), .ended false) := by
  simp only [State.queuedHit, h, if_neg Bool.false_ne_true]

theorem State.queuedHit_of_waits (hstable : (s.line l).state.isStable = true)
    (h : (s.line l).accessQueue ≠ [] ∨ (s.line l).judge b.kind = .waits) :
    s.queuedHit l b = (s.setAccessQueue l ((s.line l).accessQueue ++ [b]), .appended l) := by
  by_cases hempty : (s.line l).accessQueue = []
  · simp only [State.queuedHit, hstable, if_true, hempty, List.isEmpty_nil, h.resolve_left (fun h => h hempty)]
  · simp only [State.queuedHit, hstable, if_true, List.isEmpty_eq_false_iff.mpr hempty, if_neg Bool.false_ne_true]

theorem State.queuedHit_of_starts (hstable : (s.line l).state.isStable = true) (hempty : (s.line l).accessQueue = [])
    (h : (s.line l).judge b.kind = .starts) : s.queuedHit l b = ((s.startBop l b).1, .ended (s.startBop l b).2) := by
  simp only [State.queuedHit, hstable, if_true, hempty, List.isEmpty_nil, h]

theorem State.queuedHit_of_conflict (hstable : (s.line l).state.isStable = true) (hempty : (s.line l).accessQueue = [])
    (h : (s.line l).judge b.kind = .conflict) : s.queuedHit l b = (s.completeBop b .pinConflict, .ended false) := by
  simp only [State.queuedHit, hstable, if_true, hempty, List.isEmpty_nil, h]

theorem State.startBop_read (hk : b.kind = .read) : s.startBop l b = (s.startRead l b, false) := by
  simp only [State.startBop, hk]

theorem State.startBop_write (hk : b.kind = .write) : s.startBop l b = (s.startWrite l b, false) := by
  simp only [State.startBop, hk]

theorem State.startBop_pin (hk : b.kind = .pin) : s.startBop l b = (s.startPin l b, false) := by
  simp only [State.startBop, hk]

theorem State.startBop_discard (hk : b.kind = .discard) : s.startBop l b = (s.startDiscard l b, true) := by
  simp only [State.startBop, hk]

theorem State.transferOf_readOut {cmd : Command} (h : s.command b.ctx = some cmd) :
    s.transferOf .readOut b l =
      { kind := .readOut, bop := b, line := l, address := Rec.bufferAddress cmd.record + 4096 * b.offset, gather := [],
        received := 0, outstanding := 0, error := false } := by
  simp only [State.transferOf, h]

theorem State.transferOf_writeIn {cmd : Command} (h : s.command b.ctx = some cmd) :
    s.transferOf .writeIn b l =
      { kind := .writeIn, bop := b, line := l, address := Rec.bufferAddress cmd.record + 4096 * b.offset, gather := [],
        received := 0, outstanding := 4096, error := false } := by
  simp only [State.transferOf, h]

theorem State.startRead_eq {cmd : Command} (h : s.command b.ctx = some cmd) :
    s.startRead l b = (s.setLine l { s.line l with readers := (s.line l).readers + 1 }).handOver
      { kind := .readOut, bop := b, line := l, address := Rec.bufferAddress cmd.record + 4096 * b.offset,
        gather := [], received := 0, outstanding := 0, error := false } :=
  congrArg (State.handOver _) (State.transferOf_readOut
    (s := s.setLine l { s.line l with readers := (s.line l).readers + 1 }) h)

theorem State.startWrite_eq {cmd : Command} (h : s.command b.ctx = some cmd) :
    s.startWrite l b = (s.setLine l { s.line l with exclusive := true }).handOver
      { kind := .writeIn, bop := b, line := l, address := Rec.bufferAddress cmd.record + 4096 * b.offset,
        gather := [], received := 0, outstanding := 4096, error := false } :=
  congrArg (State.handOver _) (State.transferOf_writeIn (s := s.setLine l { s.line l with exclusive := true }) h)

theorem State.startPin_of_limit
    (h : (s.line l).pins = 255 ∨ ((s.line l).pins = 0 ∧ (s.cacheSet l.set).otherPinned l.way = 6)) :
    s.startPin l b = s.completeBop b .pinLimit := by
  by_cases hmax : (s.line l).pins = 255
  · exact if_pos hmax
  · exact (if_neg hmax).trans (if_pos (h.resolve_left hmax))

theorem State.startPin_of_room
    (h : ¬((s.line l).pins = 255 ∨ ((s.line l).pins = 0 ∧ (s.cacheSet l.set).otherPinned l.way = 6))) :
    s.startPin l b =
      ((s.setLine l { s.line l with pins := (s.line l).pins + 1 }).touchWay l).completeBop b .ok := by
  obtain ⟨hmax, hways⟩ := not_or.mp h
  exact (if_neg hmax).trans (if_neg hways)

end

theorem State.unpinHit_of_pinned {s : State} {l : LineId} {b : Bop} (h : 0 < (s.line l).pins) :
    s.unpinHit l b = ((s.setLine l { s.line l with pins := (s.line l).pins - 1 }).completeBop b .ok,
      .ended ((s.line l).pins == 1)) :=
  if_pos h

theorem State.unpinHit_of_unpinned {s : State} {l : LineId} {b : Bop} (h : (s.line l).pins = 0) :
    s.unpinHit l b = (s.completeBop b .pinUnderflow, .ended false) :=
  if_neg (by simp [h])

section
variable {s : State} {l : LineId} {b : Bop}

theorem State.flushHit_of_clean (h : (s.line l).state.isFilling = true ∨ ∃ x, (s.line l).state = .clean x) :
    s.flushHit l b = (s.completeBop b .ok, .ended false) := by
  cases hstate : (s.line l).state with
  | filling _ _ | clean _ => simp only [State.flushHit, hstate]
  | invalid | dirty _ _ | cleaning _ _ | redirty _ _ _ => simp [hstate, LineState.isFilling] at h

theorem State.flushHit_of_dirty
    (h : (s.line l).state.isDirty = true ∨ ∃ x e f, (s.line l).state = .redirty x e f) :
    s.flushHit l b = ((s.setWatchers l ((s.line l).watchers ++ [{ bop := b, mark := .next }])).wantClean l,
      .ended false) := by
  cases hstate : (s.line l).state with
  | dirty _ _ | redirty _ _ _ => simp only [State.flushHit, hstate]
  | invalid | filling _ _ | clean _ | cleaning _ _ => simp [hstate, LineState.isDirty] at h

theorem State.flushHit_of_cleaning (h : (s.line l).state.isCleaning = true) :
    s.flushHit l b = (s.setWatchers l ((s.line l).watchers ++ [{ bop := b, mark := .current }]), .ended false) := by
  cases hstate : (s.line l).state with
  | cleaning _ _ => simp only [State.flushHit, hstate]
  | invalid | filling _ _ | clean _ | dirty _ _ | redirty _ _ _ => simp [hstate, LineState.isCleaning] at h

end

/-! ### The judgement of a block operation -/

section
variable {ln : Line}

theorem Line.noHolds_iff : ln.noHolds = true ↔ ln.readers = 0 ∧ ln.exclusive = false := by
  simp [Line.noHolds]

theorem Line.judge_read_starts (h : ln.exclusive = false) : ln.judge .read = .starts := by
  simp [Line.judge, h]

theorem Line.judge_read_waits (h : ln.exclusive = true) : ln.judge .read = .waits := by
  simp [Line.judge, h]

theorem Line.judge_write_starts (h : ln.readers = 0 ∧ ln.exclusive = false) : ln.judge .write = .starts :=
  if_pos (Line.noHolds_iff.mpr h)

theorem Line.judge_write_waits (h : ¬(ln.readers = 0 ∧ ln.exclusive = false)) : ln.judge .write = .waits :=
  if_neg (mt Line.noHolds_iff.mp h)

theorem Line.judge_discard_conflict (h : 0 < ln.pins) : ln.judge .discard = .conflict :=
  if_pos h

theorem Line.judge_discard_starts (hpins : ln.pins = 0)
    (hstate : (∃ x, ln.state = .clean x) ∨ ∃ x e, ln.state = .dirty x e) (hreaders : ln.readers = 0)
    (hexclusive : ln.exclusive = false) : ln.judge .discard = .starts := by
  have hfree : ln.noHolds = true := Line.noHolds_iff.mpr ⟨hreaders, hexclusive⟩
  rcases hstate with ⟨x, hx⟩ | ⟨x, e, hx⟩ <;> simp [Line.judge, hpins, hx, hfree]

theorem Line.judge_discard_waits (hpins : ln.pins = 0)
    (h : (∃ x e, ln.state = .cleaning x e) ∨ (∃ x e f, ln.state = .redirty x e f) ∨ ln.readers ≠ 0 ∨
      ln.exclusive = true) : ln.judge .discard = .waits := by
  rcases h with ⟨x, e, hx⟩ | ⟨x, e, f, hx⟩ | hholds
  · simp [Line.judge, hpins, hx]
  · simp [Line.judge, hpins, hx]
  · have hheld : ln.noHolds = false := by
      rw [Bool.eq_false_iff, ne_eq, Line.noHolds_iff]
      rintro ⟨hreaders, hexclusive⟩
      rcases hholds with h | h
      · exact h hreaders
      · exact absurd (h.symm.trans hexclusive) (by decide)
    cases hstate : ln.state <;> simp [Line.judge, hpins, hstate, hheld]

end

theorem State.startDiscard_of_clean {s : State} {l : LineId} {x : Nat} (h : (s.line l).state = .clean x) (b : Bop) :
    s.startDiscard l b = (completeAll .discarded ((s.line l).watchers.map (·.bop))
      (((s.setWatchers l []).setAccessQueue l []).enterInvalid l)).completeBop b .ok := by
  simp only [State.startDiscard, State.forgetDirty, h]

theorem State.startDiscard_of_dirty {s : State} {l : LineId} {x : Nat} {e : Epoch} (h : (s.line l).state = .dirty x e)
    (b : Bop) :
    s.startDiscard l b = (completeAll .discarded ((s.line l).watchers.map (·.bop))
      ((((((s.leaveDirty l).unwantClean l).uncleanDown e).setWatchers l []).setAccessQueue l []).enterInvalid
        l)).completeBop b .ok := by
  simp only [State.startDiscard, State.forgetDirty, h]

/-! ### The lookup event -/

theorem State.takenFromLookup_line (s : State) (b : Bop) (l : LineId) : (s.takenFromLookup b).line l = s.line l := rfl

theorem State.settleIf_false (s : State) (S : SetId) : s.settleIf false S = s.settle := rfl

theorem exec_lookup {s : State} {c : CtxId} {k : Nat} {b : Bop} (h : s.Awaits c k b) :
    exec (.lookup c k) s = .next (((s.takenFromLookup b).lookupEvent b).1.settleIf
      ((s.takenFromLookup b).lookupEvent b).2 (setOf b.block)) := by
  show Host.Outcome.next (s.lookUp c k) = _
  unfold State.Awaits at h
  simp only [State.lookUp, h]
  rfl

/-- A lookup that ends the block operation, or leaves it waiting. -/
theorem exec_lookup_of_ended {s t : State} {c : CtxId} {k : Nat} {b : Bop} {changed : Bool} (h : s.Awaits c k b)
    (hl : (s.takenFromLookup b).lookupBop .fresh b = (t, .ended changed)) :
    exec (.lookup c k) s = .next (t.settleIf changed (setOf b.block)) := by
  rw [exec_lookup h]
  simp only [State.lookupEvent, hl]

/-- One that makes no set change. -/
theorem exec_lookup_of_unchanged {s t : State} {c : CtxId} {k : Nat} {b : Bop} (h : s.Awaits c k b)
    (hl : (s.takenFromLookup b).lookupBop .fresh b = (t, .ended false)) : exec (.lookup c k) s = .next t.settle := by
  rw [exec_lookup_of_ended h hl, State.settleIf_false]

/-- A lookup that joins the access queue of a stable line, which is then served. -/
theorem exec_lookup_of_appended {s t : State} {c : CtxId} {k : Nat} {b : Bop} {l : LineId} (h : s.Awaits c k b)
    (hl : (s.takenFromLookup b).lookupBop .fresh b = (t, .appended l)) :
    exec (.lookup c k) s = .next ((t.serve l).1.settleIf (t.serve l).2 (setOf b.block)) := by
  rw [exec_lookup h]
  simp only [State.lookupEvent, hl]

/-- Settles O47: the lookup goes by the kind and the line's state; what starts and what waits is `Line.judge`. -/
theorem lookupHits : Obligations.LookupHits := by
  unfold Obligations.LookupHits
  refine ⟨fun ln => ⟨Line.judge_read_starts, Line.judge_read_waits, Line.judge_write_starts, Line.judge_write_waits, rfl,
    Line.judge_discard_conflict, Line.judge_discard_starts, Line.judge_discard_waits⟩,
    fun s l b x => ⟨fun h => State.startDiscard_of_clean h b, fun e h => State.startDiscard_of_dirty h b⟩, ?_⟩
  rintro s c k b cmd w l hawaits hcmd hfence hgood hhit rfl
  have hcmd' : (s.takenFromLookup b).command b.ctx = some cmd := hcmd
  have hqueued := fun hk => State.lookupBop_of_queued (s := s.takenFromLookup b) (m := .fresh) hfence hgood hhit hk
  refine ⟨fun hk hfilling => ?_, fun hk hstable hwaits => ?_, fun hstable hempty => ⟨fun hk hfree => ?_,
    fun hk hreaders hfree => ?_, fun hk => ⟨fun hlimit => ?_, fun hroom => ?_⟩, fun hk hpins => ?_, fun hk hstarts => ?_⟩,
    fun hk => ?_, fun hk => ?_⟩
  · have hjoins := State.queuedHit_of_unstable (s := s.takenFromLookup b) (b := b)
      (LineState.isStable_of_isFilling hfilling)
    rw [State.takenFromLookup_line] at hjoins
    exact exec_lookup_of_unchanged hawaits ((hqueued hk).trans hjoins)
  · have hjoins := State.queuedHit_of_waits (s := s.takenFromLookup b) (b := b) hstable hwaits
    rw [State.takenFromLookup_line] at hjoins
    exact exec_lookup_of_appended hawaits ((hqueued hk).trans hjoins)
  · have hstarts := State.queuedHit_of_starts (s := s.takenFromLookup b) (b := b) hstable hempty
      (hk ▸ Line.judge_read_starts hfree)
    rw [State.startBop_read hk, State.startRead_eq hcmd'] at hstarts
    exact exec_lookup_of_unchanged hawaits ((hqueued (.inl hk)).trans hstarts)
  · have hstarts := State.queuedHit_of_starts (s := s.takenFromLookup b) (b := b) hstable hempty
      (hk ▸ Line.judge_write_starts ⟨hreaders, hfree⟩)
    rw [State.startBop_write hk, State.startWrite_eq hcmd'] at hstarts
    exact exec_lookup_of_unchanged hawaits ((hqueued (.inr (.inl hk))).trans hstarts)
  · have hstarts := State.queuedHit_of_starts (s := s.takenFromLookup b) (b := b) hstable hempty (hk ▸ rfl)
    rw [State.startBop_pin hk, State.startPin_of_limit (s := s.takenFromLookup b) hlimit] at hstarts
    exact exec_lookup_of_unchanged hawaits ((hqueued (.inr (.inr (.inl hk)))).trans hstarts)
  · have hstarts := State.queuedHit_of_starts (s := s.takenFromLookup b) (b := b) hstable hempty (hk ▸ rfl)
    rw [State.startBop_pin hk, State.startPin_of_room (s := s.takenFromLookup b) hroom] at hstarts
    exact exec_lookup_of_unchanged hawaits ((hqueued (.inr (.inr (.inl hk)))).trans hstarts)
  · exact exec_lookup_of_unchanged hawaits ((hqueued (.inr (.inr (.inr hk)))).trans
      (State.queuedHit_of_conflict hstable hempty (hk ▸ Line.judge_discard_conflict hpins)))
  · have hdiscards := State.queuedHit_of_starts (s := s.takenFromLookup b) (b := b) hstable hempty (hk ▸ hstarts)
    rw [State.startBop_discard hk] at hdiscards
    exact exec_lookup_of_ended hawaits ((hqueued (.inr (.inr (.inr hk)))).trans hdiscards)
  · have hunpin := State.lookupBop_of_unpin (s := s.takenFromLookup b) (m := .fresh) hfence hgood hhit hk
    exact ⟨fun hpins => exec_lookup_of_ended hawaits (hunpin.trans (State.unpinHit_of_pinned hpins)),
      fun hpins => exec_lookup_of_unchanged hawaits (hunpin.trans (State.unpinHit_of_unpinned hpins))⟩
  · have hflush := State.lookupBop_of_flush (s := s.takenFromLookup b) (m := .fresh) hfence hgood hhit hk
    exact ⟨fun h => exec_lookup_of_unchanged hawaits (hflush.trans (State.flushHit_of_clean h)),
      fun h => exec_lookup_of_unchanged hawaits (hflush.trans (State.flushHit_of_dirty h)),
      fun h => exec_lookup_of_unchanged hawaits (hflush.trans (State.flushHit_of_cleaning h))⟩

end Sys2Proof.Machine
end

section
/-! PROOFS. Victims, lookups that miss, wait lists and relookup passes (R18 to R20, R22): O49. -/

namespace Sys2Proof.Machine

/-! ### The last of a list that meets a condition -/

/-- The last entry of a list, in which each stands once, that meets a condition is the one that none that meets it follows. -/
theorem find?_reverse_eq_some_iff {α : Type} [DecidableEq α] {l : List α} (hnodup : l.Nodup) (hall : ∀ x, x ∈ l)
    (p : α → Bool) (w : α) :
    l.reverse.find? p = some w ↔ p w = true ∧ ∀ v, l.idxOf w < l.idxOf v → ¬p v = true := by
  rw [List.find?_eq_some_iff_append]
  refine and_congr_right fun _ => ⟨?_, fun h => ?_⟩
  · rintro ⟨after, before, hl, hnone⟩ v hv hpv
    obtain rfl : l = before.reverse ++ w :: after.reverse := by
      rw [← List.reverse_reverse l, hl]
      simp
    have hw : w ∉ before.reverse := fun hmem => (List.nodup_append.mp hnodup).2.2 w hmem w (by simp) rfl
    rw [List.idxOf_append_of_notMem hw, List.idxOf_cons_self] at hv
    have hbefore : v ∉ before.reverse := fun hmem => by
      have := List.idxOf_lt_length_of_mem hmem
      rw [List.idxOf_append_of_mem hmem] at hv
      omega
    have hmem : v ∈ after := by
      rcases List.mem_append.mp (hall v) with hmem | hmem
      · exact absurd hmem hbefore
      · rcases List.mem_cons.mp hmem with rfl | hmem
        · rw [List.idxOf_append_of_notMem hbefore, List.idxOf_cons_self] at hv
          omega
        · exact List.mem_reverse.mp hmem
    simp at hnone
    exact absurd (hnone v hmem) (by simp [hpv])
  · obtain ⟨before, after, rfl⟩ := List.append_of_mem (hall w)
    refine ⟨after.reverse, before.reverse, by simp, fun v hv => ?_⟩
    have hv' : v ∈ after := List.mem_reverse.mp hv
    obtain ⟨-, hcons, hdisjoint⟩ := List.nodup_append.mp hnodup
    have hw : w ∉ before := fun hmem => hdisjoint w hmem w (by simp) rfl
    have hvb : v ∉ before := fun hmem => hdisjoint v hmem v (by simp [hv']) rfl
    have hne : w ≠ v := fun e => (List.nodup_cons.mp hcons).1 (e ▸ hv')
    have := h v (by
      rw [List.idxOf_append_of_notMem hw, List.idxOf_append_of_notMem hvb, List.idxOf_cons_self,
        List.idxOf_cons_ne _ hne]
      omega)
    simpa using this

theorem find?_reverse_eq_none_iff {α : Type} {l : List α} (hall : ∀ x, x ∈ l) (p : α → Bool) :
    l.reverse.find? p = none ↔ ∀ v, ¬p v = true := by
  rw [List.find?_eq_none]
  exact ⟨fun h v => h v (List.mem_reverse.mpr (hall v)), fun h v _ => h v⟩

/-! ### Victims -/

theorem Line.isVictim_iff (ln : Line) : ln.isVictim = true ↔ (∃ x, ln.state = .clean x) ∧ ln.pins = 0 ∧ ln.readers = 0 ∧
    ln.exclusive = false ∧ ln.accessQueue = [] ∧ ln.cleanWanted = false := by
  cases h : ln.state <;> simp [Line.isVictim, Line.noHolds, h, and_assoc]

section
variable {cs : CacheSet} (hcomplete : ∀ w : WayId, cs.recency.count w = 1)
include hcomplete

theorem CacheSet.mem_recency (w : WayId) : w ∈ cs.recency := List.count_pos_iff.mp (by rw [hcomplete w]; decide)

theorem CacheSet.recency_nodup : cs.recency.Nodup := List.nodup_iff_count_le_one.mpr fun w => (hcomplete w).le

omit hcomplete in
theorem CacheSet.victim_of_invalid {w : WayId} (hw : cs.ways[w].state = .invalid)
    (hlowest : ∀ v : WayId, v < w → cs.ways[v].state ≠ .invalid) : cs.victim = some w := by
  have hfind : ((List.finRange 8).find? fun v => cs.ways[v].state == .invalid) = some w :=
    find?_finRange_eq_some (by simpa using hw) fun v hv => by simpa using hlowest v hv
  simp only [CacheSet.victim, hfind]

omit hcomplete in
theorem CacheSet.victim_of_valid (hvalid : ∀ w : WayId, cs.ways[w].state ≠ .invalid) :
    cs.victim = cs.recency.reverse.find? fun w => cs.ways[w].isVictim := by
  have hfind : ((List.finRange 8).find? fun v => cs.ways[v].state == .invalid) = none :=
    List.find?_eq_none.mpr fun v _ => by simpa using hvalid v
  simp only [CacheSet.victim, hfind]

omit hcomplete in
theorem CacheSet.any_ways_iff (p : Line → Bool) : cs.ways.toList.any p = true ↔ ∃ v : WayId, p cs.ways[v] = true := by
  simp only [List.any_eq_true, Vector.mem_toList_iff, Vector.mem_iff_getElem]
  constructor
  · rintro ⟨_, ⟨i, hi, rfl⟩, hp⟩
    exact ⟨⟨i, hi⟩, hp⟩
  · rintro ⟨v, hp⟩
    exact ⟨_, ⟨v.val, v.isLt, rfl⟩, hp⟩

omit hcomplete in
theorem CacheSet.victimClean_of_asked
    (h : ∃ v : WayId, cs.ways[v].state.isCleaning = true ∨ cs.ways[v].cleanWanted = true) : cs.victimClean = none := by
  refine if_pos ((CacheSet.any_ways_iff _).mpr ?_)
  simpa using h

omit hcomplete in
theorem CacheSet.victimClean_of_unasked
    (h : ∀ v : WayId, cs.ways[v].state.isCleaning = false ∧ cs.ways[v].cleanWanted = false) :
    cs.victimClean =
      cs.recency.reverse.find? fun w => cs.ways[w].state.isDirty && cs.ways[w].pins == 0 && !cs.ways[w].exclusive := by
  refine if_neg fun hany => ?_
  obtain ⟨v, hv⟩ := (CacheSet.any_ways_iff _).mp hany
  obtain ⟨hcleaning, hwanted⟩ := h v
  rcases (Bool.or_eq_true _ _).mp hv with hv | hv
  · exact absurd (hcleaning.symm.trans hv) (by decide)
  · exact absurd (hwanted.symm.trans hv) (by decide)

end

/-! ### Lookups that miss -/

section
variable {s : State} {m : LookupMode} {b : Bop}

theorem State.lookupMiss_offline (hk : b.kind = .read ∨ b.kind = .pin) (hlink : s.media.link = .down) :
    s.lookupMiss m b = (s.completeBop b .offline, .ended false) := by
  rcases hk with hk | hk <;> simp only [State.lookupMiss, hk, hlink, if_true]

theorem State.lookupMiss_seeks (h : ((b.kind = .read ∨ b.kind = .pin) ∧ s.media.link = .up) ∨ b.kind = .write) :
    s.lookupMiss m b = s.seekVictim m b := by
  rcases h with ⟨hk | hk, hlink⟩ | hk
  · simp only [State.lookupMiss, hk, hlink, reduceCtorEq, if_false]
  · simp only [State.lookupMiss, hk, hlink, reduceCtorEq, if_false]
  · simp only [State.lookupMiss, hk]

theorem State.lookupMiss_ok (hk : b.kind = .discard ∨ b.kind = .flush) :
    s.lookupMiss m b = (s.completeBop b .ok, .ended false) := by
  rcases hk with hk | hk <;> simp only [State.lookupMiss, hk]

theorem State.lookupMiss_unpin (hk : b.kind = .unpin) : s.lookupMiss m b = (s.completeBop b .pinUnderflow, .ended false) := by
  simp only [State.lookupMiss, hk]

theorem State.seekVictim_of_stalled (h : (m = .fresh ∧ (s.cacheSet (setOf b.block)).waitList ≠ []) ∨
    (m ≠ .pass ∧ (s.cacheSet (setOf b.block)).victim = none)) :
    s.seekVictim m b = (s.joinWaitList (setOf b.block) b, .ended false) := by
  by_cases hwaiting : m = .fresh ∧ (s.cacheSet (setOf b.block)).waitList ≠ []
  · exact if_pos hwaiting
  · obtain ⟨hmode, hnone⟩ := h.resolve_left hwaiting
    refine (if_neg hwaiting).trans ?_
    simp only [hnone, if_neg hmode]

theorem State.seekVictim_of_pass (hnone : (s.cacheSet (setOf b.block)).victim = none) :
    s.seekVictim .pass b = (s, .stays) := by
  simp only [State.seekVictim, hnone, reduceCtorEq, false_and, if_false, if_true]

theorem State.seekVictim_of_victim {w : WayId} (hfirst : m = .fresh → (s.cacheSet (setOf b.block)).waitList = [])
    (hvictim : (s.cacheSet (setOf b.block)).victim = some w) :
    s.seekVictim m b = (s.allocate ⟨setOf b.block, w⟩ b, .ended true) := by
  refine (if_neg fun h => h.2 (hfirst h.1)).trans ?_
  simp only [hvictim]

theorem State.allocate_fill {l : LineId} (hk : b.kind = .read ∨ b.kind = .pin) :
    s.allocate l b = { (s.setLine l { s.line l with
        state := .filling b.block .media, checkBad := false, accessQueue := (s.line l).accessQueue ++ [b] }).touchWay l with
      media := { s.media with fillQueue := s.media.fillQueue ++ [l] } } := by
  rcases hk with hk | hk <;> simp only [State.allocate, hk] <;> rfl

theorem State.allocate_write {l : LineId} (hk : b.kind = .write) :
    s.allocate l b = ((s.setLine l { s.line l with state := .filling b.block .host, checkBad := false }).touchWay
      l).startWrite l b := by
  simp only [State.allocate, hk]

end

theorem State.askVictimClean_of_none {s : State} {S : SetId} (h : (s.cacheSet S).victimClean = none) :
    s.askVictimClean S = s := by
  simp only [State.askVictimClean, h]

theorem State.wantClean_of_unwanted {s : State} {l : LineId} (h : (s.line l).cleanWanted = false) :
    s.wantClean l = { s.setLine l { s.line l with cleanWanted := true } with
      writeBack := { s.writeBack with urgent := s.writeBack.urgent ++ [l] } } := by
  simp only [State.wantClean, h, Bool.false_eq_true, if_false]
  rfl

/-- A way that is asked to be cleaned was not wanted clean. -/
theorem CacheSet.cleanWanted_of_victimClean {cs : CacheSet} {w : WayId} (h : cs.victimClean = some w) :
    cs.ways[w].cleanWanted = false := by
  by_contra hwanted
  rw [CacheSet.victimClean_of_asked ⟨w, .inr (by simpa using hwanted)⟩] at h
  cases h

theorem State.askVictimClean_of_some {s : State} {S : SetId} {w : WayId} (h : (s.cacheSet S).victimClean = some w) :
    s.askVictimClean S = { s.setLine ⟨S, w⟩ { s.line ⟨S, w⟩ with cleanWanted := true } with
      writeBack := { s.writeBack with urgent := s.writeBack.urgent ++ [⟨S, w⟩] } } := by
  simp only [State.askVictimClean, h]
  exact State.wantClean_of_unwanted (CacheSet.cleanWanted_of_victimClean h)

/-! ### A set without one of its waiters -/

section
variable (s : State) (S : SetId) (q : List Bop)

theorem State.cacheSet_setWaitList_self : (s.setWaitList S q).cacheSet S = { s.cacheSet S with waitList := q } :=
  State.cacheSet_setCacheSet_self s S _

theorem State.line_setWaitList (l : LineId) : (s.setWaitList S q).line l = s.line l := by
  unfold State.line
  by_cases h : S = l.set
  · subst h
    rw [State.cacheSet_setWaitList_self]
  · rw [State.setWaitList, State.cacheSet_setCacheSet_ne _ _ _ _ h]

theorem State.isFenced_setWaitList : (s.setWaitList S q).isFenced S = s.isFenced S := by
  rw [State.isFenced, State.cacheSet_setWaitList_self]
  rfl

theorem State.badWay_setWaitList : ((s.setWaitList S q).cacheSet S).badWay = (s.cacheSet S).badWay := by
  rw [State.cacheSet_setWaitList_self]
  rfl

theorem State.hitWay_setWaitList (n : Nat) : ((s.setWaitList S q).cacheSet S).hitWay n = (s.cacheSet S).hitWay n := by
  rw [State.cacheSet_setWaitList_self]
  rfl

theorem State.victim_setWaitList : ((s.setWaitList S q).cacheSet S).victim = (s.cacheSet S).victim := by
  rw [State.cacheSet_setWaitList_self]
  rfl

end

/-! ### The visits of a pass -/

section
variable {s : State} {S : SetId} {b : Bop} {bs : List Bop}

theorem passLoop_of_absent (h : b ∉ (s.cacheSet S).waitList) : passLoop S (b :: bs) s = passLoop S bs s :=
  if_neg h

variable {u : State} (hu : u = s.setWaitList S ((s.cacheSet S).waitList.filter (· != b)))
  (hmem : b ∈ (s.cacheSet S).waitList)
include hu hmem

theorem passLoop_of_stays {t : State} (h : u.lookupBop .pass b = (t, .stays)) :
    passLoop S (b :: bs) s = passLoop S bs s := by
  simp only [passLoop, if_pos hmem, ← hu, h]

theorem passLoop_of_ended {t : State} {changed : Bool} (h : u.lookupBop .pass b = (t, .ended changed)) :
    passLoop S (b :: bs) s = passLoop S bs t := by
  simp only [passLoop, if_pos hmem, ← hu, h]

theorem passLoop_of_appended {t : State} {l : LineId} (h : u.lookupBop .pass b = (t, .appended l)) :
    passLoop S (b :: bs) s = passLoop S bs (t.serve l).1 := by
  simp only [passLoop, if_pos hmem, ← hu, h]

end

theorem State.pass_of_empty {s : State} {S : SetId} (h : (s.cacheSet S).waitList = []) : s.pass S = s :=
  if_pos (by simp [h])

theorem State.pass_of_waiting {s : State} {S : SetId} (h : (s.cacheSet S).waitList ≠ []) :
    s.pass S = if ((passLoop S (s.cacheSet S).waitList s).cacheSet S).waitList = [] then passLoop S (s.cacheSet S).waitList s
      else (passLoop S (s.cacheSet S).waitList s).askVictimClean S := by
  refine (if_neg (by simpa using h)).trans ?_
  simp only [List.isEmpty_iff]

section
variable {s u : State} {S : SetId} {b : Bop} {bs : List Bop} (hS : setOf b.block = S)
  (hu : u = s.setWaitList S ((s.cacheSet S).waitList.filter (· != b))) (hmem : b ∈ (s.cacheSet S).waitList)
  (hfence : s.isFenced S = false) (hgood : (s.cacheSet S).badWay = none)
include hS hu hfence hgood

/-- What the lookup of a visited block operation finds, out of the list while it is looked up. -/
theorem State.lookupBop_of_visited_miss (hmiss : (s.cacheSet S).hitWay b.block = none) :
    u.lookupBop .pass b = u.lookupMiss .pass b := by
  subst hS hu
  exact State.lookupBop_of_miss ((State.isFenced_setWaitList _ _ _).trans hfence)
    ((State.badWay_setWaitList _ _ _).trans hgood) ((State.hitWay_setWaitList _ _ _ _).trans hmiss)

theorem State.lookupBop_of_visited_hit {w : WayId} (hhit : (s.cacheSet S).hitWay b.block = some w)
    (hk : b.kind = .read ∨ b.kind = .write ∨ b.kind = .pin) : u.lookupBop .pass b = u.queuedHit ⟨S, w⟩ b := by
  subst hS hu
  exact State.lookupBop_of_queued ((State.isFenced_setWaitList _ _ _).trans hfence)
    ((State.badWay_setWaitList _ _ _).trans hgood) ((State.hitWay_setWaitList _ _ _ _).trans hhit)
    (hk.imp_right (Or.imp_right .inl))

include hmem

theorem passLoop_of_victim {w : WayId} (hmiss : (s.cacheSet S).hitWay b.block = none)
    (hseeks : ((b.kind = .read ∨ b.kind = .pin) ∧ s.media.link = .up) ∨ b.kind = .write)
    (hvictim : (s.cacheSet S).victim = some w) :
    passLoop S (b :: bs) s = passLoop S bs (u.allocate ⟨S, w⟩ b) := by
  have hlookup := State.lookupBop_of_visited_miss hS hu hfence hgood hmiss
  have htaken : (u.cacheSet (setOf b.block)).victim = some w := by
    rw [hS, hu, State.victim_setWaitList, hvictim]
  have hmedia : u.media = s.media := by
    rw [hu]
    rfl
  rw [State.lookupMiss_seeks (hmedia ▸ hseeks), State.seekVictim_of_victim (m := .pass) nofun htaken, hS] at hlookup
  exact passLoop_of_ended hu hmem hlookup

theorem passLoop_of_no_victim (hmiss : (s.cacheSet S).hitWay b.block = none)
    (hseeks : ((b.kind = .read ∨ b.kind = .pin) ∧ s.media.link = .up) ∨ b.kind = .write)
    (hvictim : (s.cacheSet S).victim = none) : passLoop S (b :: bs) s = passLoop S bs s := by
  have hlookup := State.lookupBop_of_visited_miss hS hu hfence hgood hmiss
  have hnone : (u.cacheSet (setOf b.block)).victim = none := by
    rw [hS, hu, State.victim_setWaitList, hvictim]
  have hmedia : u.media = s.media := by
    rw [hu]
    rfl
  rw [State.lookupMiss_seeks (hmedia ▸ hseeks), State.seekVictim_of_pass hnone] at hlookup
  exact passLoop_of_stays hu hmem hlookup

theorem passLoop_of_hit_starts {w : WayId} (hhit : (s.cacheSet S).hitWay b.block = some w)
    (hk : b.kind = .read ∨ b.kind = .write ∨ b.kind = .pin) (hstable : (s.line ⟨S, w⟩).state.isStable = true)
    (hempty : (s.line ⟨S, w⟩).accessQueue = []) (hstarts : (s.line ⟨S, w⟩).judge b.kind = .starts) :
    passLoop S (b :: bs) s = passLoop S bs (u.startBop ⟨S, w⟩ b).1 := by
  have hline : u.line ⟨S, w⟩ = s.line ⟨S, w⟩ := by
    rw [hu, State.line_setWaitList]
  have hlookup := State.lookupBop_of_visited_hit hS hu hfence hgood hhit hk
  rw [State.queuedHit_of_starts (hline ▸ hstable) (hline ▸ hempty) (hline ▸ hstarts)] at hlookup
  exact passLoop_of_ended hu hmem hlookup

end

/-- Settles O49: the victim is the first INVALID way or the last of the recency order that may be taken, and a pass looks each waiter up. -/
theorem victimIsChosen : Obligations.VictimIsChosen := by
  unfold Obligations.VictimIsChosen
  refine ⟨fun cs hcomplete => ⟨fun w hw hlowest => CacheSet.victim_of_invalid hw hlowest, fun hvalid => ?_⟩,
    fun cs hcomplete => ⟨CacheSet.victimClean_of_asked, fun hunasked => ?_⟩, fun s S => ⟨State.askVictimClean_of_none, ?_,
      State.pass_of_empty, ?_, rfl⟩, ?_⟩
  · rw [CacheSet.victim_of_valid hvalid]
    refine ⟨fun w => ?_, ?_⟩
    · rw [find?_reverse_eq_some_iff (CacheSet.recency_nodup hcomplete) (CacheSet.mem_recency hcomplete)]
      simp only [Line.isVictim_iff, and_assoc]
      rfl
    · rw [find?_reverse_eq_none_iff (CacheSet.mem_recency hcomplete)]
      simp only [Line.isVictim_iff]
  · rw [CacheSet.victimClean_of_unasked hunasked]
    have hspelled : ∀ w : WayId, (cs.ways[w].state.isDirty && cs.ways[w].pins == 0 && !cs.ways[w].exclusive) = true ↔
        cs.ways[w].state.isDirty = true ∧ cs.ways[w].pins = 0 ∧ cs.ways[w].exclusive = false := fun w => by
      rw [Bool.and_eq_true, Bool.and_eq_true, beq_iff_eq, Bool.not_eq_true', and_assoc]
    refine ⟨fun w => ?_, ?_⟩
    · rw [find?_reverse_eq_some_iff (CacheSet.recency_nodup hcomplete) (CacheSet.mem_recency hcomplete)]
      simp only [hspelled, and_assoc]
      rfl
    · rw [find?_reverse_eq_none_iff (CacheSet.mem_recency hcomplete)]
      simp only [hspelled]
  · rintro w u hw rfl
    exact State.askVictimClean_of_some hw
  · rintro q u rfl hwaiting rfl
    exact State.pass_of_waiting hwaiting
  · intro s u S b bs hS hu
    refine ⟨passLoop_of_absent, fun hmem hk => ⟨fun hfence => ?_, fun w hfence hbad => ?_, fun hfence hgood => ?_⟩⟩
    · subst hS hu
      exact passLoop_of_ended rfl hmem (State.lookupBop_of_fenced ((State.isFenced_setWaitList _ _ _).trans hfence))
    · subst hS hu
      exact passLoop_of_ended rfl hmem (State.lookupBop_of_bad ((State.isFenced_setWaitList _ _ _).trans hfence)
        ((State.badWay_setWaitList _ _ _).trans hbad))
    · have hmedia : u.media = s.media := by
        rw [hu]
        rfl
      have hline : ∀ l, u.line l = s.line l := by
        rw [hu]
        exact State.line_setWaitList s S _
      have hfetches : b.kind ≠ .write → b.kind = .read ∨ b.kind = .pin := fun hwrite =>
        hk.imp_right fun h => h.resolve_left hwrite
      refine ⟨fun hmiss => ⟨fun hwrite hlink => ?_, fun hlink hnone => ?_, ?_⟩, ?_⟩
      · have hlookup := State.lookupBop_of_visited_miss hS hu hfence hgood hmiss
        rw [State.lookupMiss_offline (hfetches hwrite) (hmedia ▸ hlink)] at hlookup
        exact passLoop_of_ended hu hmem hlookup
      · refine passLoop_of_no_victim hS hu hmem hfence hgood hmiss ?_ hnone
        by_cases hwrite : b.kind = .write
        · exact .inr hwrite
        · exact .inl ⟨hfetches hwrite, hlink.resolve_left hwrite⟩
      · rintro w l hvictim rfl
        refine ⟨fun hwrite hlink => ?_, fun hwrite => ?_⟩
        · rw [passLoop_of_victim hS hu hmem hfence hgood hmiss (.inl ⟨hfetches hwrite, hlink⟩) hvictim,
            State.allocate_fill (hfetches hwrite), hline, hmedia]
        · rw [passLoop_of_victim hS hu hmem hfence hgood hmiss (.inr hwrite) hvictim, State.allocate_write hwrite, hline]
      · rintro w l hhit rfl
        have hlookup := State.lookupBop_of_visited_hit hS hu hfence hgood hhit hk
        refine ⟨fun hfilling => ?_, fun hstable => ⟨fun hwaits => ?_, fun hempty hstarts => ?_⟩⟩
        · rw [State.queuedHit_of_unstable (by rw [hline]; exact LineState.isStable_of_isFilling hfilling), hline] at hlookup
          exact passLoop_of_ended hu hmem hlookup
        · rw [State.queuedHit_of_waits (by rw [hline]; exact hstable) (by rw [hline]; exact hwaits), hline] at hlookup
          exact passLoop_of_appended hu hmem hlookup
        · have hstart := passLoop_of_hit_starts (bs := bs) hS hu hmem hfence hgood hhit hk hstable hempty hstarts
          refine ⟨fun hread => ?_, fun hwrite => ?_, fun hpin => ?_⟩
          · rw [hstart, State.startBop_read hread]
          · rw [hstart, State.startBop_write hwrite]
          · rw [hstart, State.startBop_pin hpin]

end Sys2Proof.Machine
end

section
/-! PROOFS. What the small operations make of lines and of the write-back account, and what a commit makes of a line (Table 2.3): O53. -/

namespace Sys2Proof.Machine

namespace State

variable (s : State)

/-! ### Lines -/

theorem line_setLineState (l x : LineId) (st : LineState) :
    (s.setLineState l st).line x = if x = l then { s.line l with state := st } else s.line x :=
  s.line_setLine l x _

@[simp] theorem line_setUnclean (e : Epoch) (n : Nat) (l : LineId) : (s.setUnclean e n).line l = s.line l :=
  line_of_directory (s.setUnclean_frame e n).1 l

@[simp] theorem line_uncleanUp (e : Epoch) (l : LineId) : (s.uncleanUp e).line l = s.line l := s.line_setUnclean e _ l

@[simp] theorem line_uncleanDown (e : Epoch) (l : LineId) : (s.uncleanDown e).line l = s.line l := s.line_setUnclean e _ l

@[simp] theorem line_joinDirty (l x : LineId) : (s.joinDirty l).line x = s.line x := rfl

theorem leaveDirty_directory (l : LineId) : (s.leaveDirty l).directory = s.directory := by
  rw [s.leaveDirty_eq l]

@[simp] theorem line_leaveDirty (l x : LineId) : (s.leaveDirty l).line x = s.line x :=
  line_of_directory (s.leaveDirty_directory l) x

theorem line_unwantClean (l x : LineId) :
    (s.unwantClean l).line x = if x = l then { s.line l with cleanWanted := false } else s.line x :=
  s.line_setLine l x _

theorem line_setWatchers (l x : LineId) (ws : List Watcher) :
    (s.setWatchers l ws).line x = if x = l then { s.line l with watchers := ws } else s.line x :=
  s.line_setLine l x _

theorem line_setAccessQueue (l x : LineId) (q : List Bop) :
    (s.setAccessQueue l q).line x = if x = l then { s.line l with accessQueue := q } else s.line x :=
  s.line_setLine l x _

theorem line_enterInvalid (l x : LineId) :
    (s.enterInvalid l).line x =
      if x = l then { s.line l with state := .invalid, checkBad := false, pins := 0, cleanWanted := false } else s.line x :=
  s.line_setLine l x _

theorem line_wantClean (l x : LineId) :
    (s.wantClean l).line x = if x = l then { s.line l with cleanWanted := true } else s.line x := by
  cases hwanted : (s.line l).cleanWanted with
  | false =>
    rw [wantClean_of_unwanted hwanted]
    exact s.line_setLine l x _
  | true =>
    have hsame : s.wantClean l = s := if_pos hwanted
    have hline : ({ s.line l with cleanWanted := true } : Line) = s.line l := by rw [← hwanted]
    rw [hsame, hline]
    split
    · next h => rw [h]
    · rfl

/-! ### The write-back account -/

theorem wantClean_writeBack (l : LineId) :
    (s.wantClean l).writeBack = { s.writeBack with
      urgent := if (s.line l).cleanWanted then s.writeBack.urgent else s.writeBack.urgent ++ [l] } := by
  unfold State.wantClean
  split
  · rfl
  · rfl

@[simp] theorem unclean_wantClean (l : LineId) (e : Epoch) : (s.wantClean l).unclean e = s.unclean e := by
  simp only [State.unclean, wantClean_writeBack]

@[simp] theorem dirtyOrder_wantClean (l : LineId) : (s.wantClean l).writeBack.dirtyOrder = s.writeBack.dirtyOrder := by
  rw [wantClean_writeBack]

@[simp] theorem unclean_joinDirty (l : LineId) (e : Epoch) : (s.joinDirty l).unclean e = s.unclean e := rfl

@[simp] theorem dirtyOrder_joinDirty (l : LineId) : (s.joinDirty l).writeBack.dirtyOrder = s.writeBack.dirtyOrder ++ [l] :=
  rfl

theorem dirtyOrder_setUnclean (e : Epoch) (n : Nat) : (s.setUnclean e n).writeBack.dirtyOrder = s.writeBack.dirtyOrder := by
  rw [s.setUnclean_eq e n]

@[simp] theorem unclean_setLineState (l : LineId) (st : LineState) (e : Epoch) :
    (s.setLineState l st).unclean e = s.unclean e := rfl

@[simp] theorem isFenced_setUnclean (e : Epoch) (n : Nat) (S : SetId) : (s.setUnclean e n).isFenced S = s.isFenced S := by
  rw [State.isFenced, cacheSet_of_directory (s.setUnclean_frame e n).1]
  rfl

@[simp] theorem isFenced_joinDirty (l : LineId) (S : SetId) : (s.joinDirty l).isFenced S = s.isFenced S := rfl

@[simp] theorem isFenced_setLineState (l : LineId) (st : LineState) (S : SetId) :
    (s.setLineState l st).isFenced S = s.isFenced S := s.isFenced_setLine l _ S

/-! ### Commits -/

theorem line_salvageIfFenced (l : LineId) :
    (s.salvageIfFenced l).line l = { s.line l with cleanWanted := (s.line l).cleanWanted || s.isFenced l.set } := by
  unfold State.salvageIfFenced
  cases s.isFenced l.set with
  | true => rw [if_pos rfl, line_wantClean, if_pos rfl, Bool.or_true]
  | false => rw [if_neg Bool.false_ne_true, Bool.or_false]

@[simp] theorem unclean_salvageIfFenced (l : LineId) (e : Epoch) : (s.salvageIfFenced l).unclean e = s.unclean e := by
  unfold State.salvageIfFenced
  split
  · exact s.unclean_wantClean l e
  · rfl

@[simp] theorem dirtyOrder_salvageIfFenced (l : LineId) :
    (s.salvageIfFenced l).writeBack.dirtyOrder = s.writeBack.dirtyOrder := by
  unfold State.salvageIfFenced
  split
  · exact s.dirtyOrder_wantClean l
  · rfl

theorem commitLine_of_clean {s : State} {l : LineId} {x : Nat}
    (h : (s.line l).state = .clean x ∨ ∃ src, (s.line l).state = .filling x src) :
    s.commitLine l = (((s.setLineState l (.dirty x s.writeBack.currentEpoch)).uncleanUp
      s.writeBack.currentEpoch).joinDirty l).salvageIfFenced l := by
  rcases h with h | ⟨src, h⟩ <;> simp only [State.commitLine, h]

end State

/-- Settles O53: a line that enters DIRTY joins the current epoch's count and the dirty order list. -/
theorem commitMakesTheLineUnclean : Obligations.CommitMakesTheLineUnclean := by
  unfold Obligations.CommitMakesTheLineUnclean
  rintro s l _ rfl
  refine ⟨fun x h => ?_, fun x f h => ?_, fun x f h => ?_, fun x f g h => ?_⟩
  · rw [State.commitLine_of_clean h, State.line_salvageIfFenced, State.unclean_salvageIfFenced,
      State.unclean_salvageIfFenced, State.dirtyOrder_salvageIfFenced, State.line_joinDirty, State.line_uncleanUp,
      State.line_setLineState, if_pos rfl, State.unclean_joinDirty, State.unclean_joinDirty, State.dirtyOrder_joinDirty,
      State.isFenced_joinDirty, State.uncleanUp, State.unclean_setUnclean_self, State.unclean_setUnclean_other,
      State.dirtyOrder_setUnclean, State.isFenced_setUnclean, State.isFenced_setLineState]
    exact ⟨rfl, rfl, rfl, rfl, rfl⟩
  · simp only [State.commitLine, h]
  · simp only [State.commitLine, h]
  · simp only [State.commitLine, h]

end Sys2Proof.Machine
end

section
/-! PROOFS. The service of an access queue (R14), the release of holds (R9), and the ends of transfers (R37 to R42): O51, O52, O54. -/

namespace Sys2Proof.Machine

/-! ### What a start leaves of the access queue -/

section
variable (s : State) (l : LineId) (b : Bop)

theorem State.handOver_directory (t : Transfer) : (s.handOver t).directory = s.directory := by
  unfold State.handOver State.takeChannel
  split
  · dsimp only
    split <;> rfl
  · rfl

theorem State.accessQueue_completeBop (st : Status) : ((s.completeBop b st).line l).accessQueue = (s.line l).accessQueue := by
  rw [(State.SameCore.completeBop s b st).line]

theorem State.accessQueue_startRead : ((s.startRead l b).line l).accessQueue = (s.line l).accessQueue := by
  rw [State.startRead, State.line_of_directory (State.handOver_directory _ _), State.line_setLine_self]

theorem State.accessQueue_startWrite : ((s.startWrite l b).line l).accessQueue = (s.line l).accessQueue := by
  rw [State.startWrite, State.line_of_directory (State.handOver_directory _ _), State.line_setLine_self]

theorem State.line_touchWay (x : LineId) : (s.touchWay l).line x = s.line x := by
  unfold State.line State.touchWay
  by_cases h : l.set = x.set
  · rw [h, State.cacheSet_setCacheSet_self]
  · rw [State.cacheSet_setCacheSet_ne _ _ _ _ h]

theorem State.accessQueue_startPin : ((s.startPin l b).line l).accessQueue = (s.line l).accessQueue := by
  unfold State.startPin
  dsimp only
  split
  · exact s.accessQueue_completeBop l b _
  · split
    · exact s.accessQueue_completeBop l b _
    · rw [State.accessQueue_completeBop, State.line_touchWay, State.line_setLine_self]

end

/-! ### Service -/

section
variable {s : State} {l : LineId}

theorem State.serve_of_empty (h : (s.line l).accessQueue = []) : s.serve l = (s, false) := by
  simp only [State.serve, h, List.length_nil, serviceLoop, List.isEmpty_nil, Bool.not_true, Bool.false_and, Bool.or_false]

variable {b : Bop} {rest : List Bop} (hq : (s.line l).accessQueue = b :: rest)
include hq

theorem State.serve_of_unstable (h : (s.line l).state.isStable = false) : s.serve l = (s, false) := by
  simp only [State.serve, hq, List.length_cons, serviceLoop, h, Bool.false_eq_true, if_false, List.isEmpty_cons,
    Bool.and_false, Bool.or_false]

variable (hstable : (s.line l).state.isStable = true)
include hstable

theorem State.serve_of_waits (h : (s.line l).judge b.kind = .waits) : s.serve l = (s, false) := by
  simp only [State.serve, hq, List.length_cons, serviceLoop, hstable, if_true, h, List.isEmpty_cons,
    Bool.and_false, Bool.or_false]

omit hstable in
/-- One step of the service that leaves the rest of the queue in its place: the service goes on from there. -/
theorem State.serve_of_step {t : State} (hrest : (t.line l).accessQueue = rest)
    (hstep : serviceLoop l (rest.length + 1) s = serviceLoop l rest.length t) :
    s.serve l = ((t.serve l).1, rest.isEmpty || (t.serve l).2) := by
  simp only [State.serve, hq, hrest, List.length_cons, hstep, List.isEmpty_cons, Bool.not_false, Bool.true_and]
  cases rest with
  | nil => simp only [List.length_nil, serviceLoop, hrest, List.isEmpty_nil, Bool.or_true, Bool.true_or]
  | cons c cs => simp only [List.isEmpty_cons, Bool.not_false, Bool.true_and, Bool.false_or]

theorem State.serve_of_conflict (h : (s.line l).judge b.kind = .conflict) :
    s.serve l = ((((s.setAccessQueue l rest).completeBop b .pinConflict).serve l).1,
      rest.isEmpty || (((s.setAccessQueue l rest).completeBop b .pinConflict).serve l).2) := by
  refine State.serve_of_step hq ?_ ?_
  · rw [State.accessQueue_completeBop, State.line_setAccessQueue, if_pos rfl]
  · simp only [serviceLoop, hq, hstable, if_true, h]

/-- A start that is no DISCARD's. -/
theorem State.serve_of_start {t : State} (h : (s.line l).judge b.kind = .starts)
    (hstart : (s.setAccessQueue l rest).startBop l b = (t, false)) (hkeeps : (t.line l).accessQueue = rest) :
    s.serve l = ((t.serve l).1, rest.isEmpty || (t.serve l).2) := by
  refine State.serve_of_step hq hkeeps ?_
  simp only [serviceLoop, hq, hstable, if_true, h, hstart, Bool.false_eq_true, if_false]

theorem State.serve_of_discard (h : (s.line l).judge b.kind = .starts) (hk : b.kind = .discard) :
    s.serve l = (relookDetached rest ((s.setAccessQueue l rest).startDiscard l b), true) := by
  simp only [State.serve, hq, List.length_cons, serviceLoop, hstable, if_true, h, State.startBop_discard hk, Bool.true_or]

end

/-! ### Release of a read hold, and read-outs -/

theorem State.releaseRead_eq (s : State) (l : LineId) :
    s.releaseRead l =
      (((s.setLine l { s.line l with readers := (s.line l).readers - 1 }).serve l).1,
        decide ((s.line l).readers ≤ 1 ∧ (s.line l).exclusive = false) ||
          ((s.setLine l { s.line l with readers := (s.line l).readers - 1 }).serve l).2) := by
  have hfree : ((s.setLine l { s.line l with readers := (s.line l).readers - 1 }).line l).noHolds =
      decide ((s.line l).readers ≤ 1 ∧ (s.line l).exclusive = false) := by
    rw [State.line_setLine_self, Bool.eq_iff_iff, Line.noHolds_iff, decide_eq_true_iff]
    exact and_congr_left' (by show (s.line l).readers - 1 = 0 ↔ _; omega)
  simp only [State.releaseRead, hfree]

theorem State.gaveUp_iff {s : State} {l : LineId} : s.gaveUp l = true ↔ (s.line l).state = .invalid := by
  simp [State.gaveUp]

theorem State.gaveUp_eq_false_iff {s : State} {l : LineId} : s.gaveUp l = false ↔ (s.line l).state ≠ .invalid := by
  rw [Bool.eq_false_iff, ne_eq, State.gaveUp_iff]

theorem State.readOutOn_eq {s : State} {i : ChannelId} {x : Transfer} (h : s.channel i = some x) (hk : x.kind = .readOut) :
    s.readOutOn i = some x := by
  simp [State.readOutOn, h, hk]

theorem State.transferFault_eq {s : State} {x : Transfer} {cmd : Command} (h : s.command x.bop.ctx = some cmd)
    (k : HostTransferKind) : s.transferFault x k = .hostBus x.address k cmd.sr (Rec.commandId cmd.record) := by
  simp only [State.transferFault, h]

theorem exec_readOutCompletes {s : State} {i : ChannelId} {x : Transfer} (h : s.readOutOn i = some x) :
    exec (.readOutCompletes i) s = .next (s.readOutEnds i x) := by
  rw [show exec (.readOutCompletes i) s = execReadOutCompletes i s from rfl, execReadOutCompletes, h]

theorem exec_readOutRefused {s : State} {i : ChannelId} {x : Transfer} (h : s.readOutOn i = some x) :
    exec (.readOutRefused i) s = .next (s.readOutRefuses i x) := by
  rw [show exec (.readOutRefused i) s = execReadOutRefused i s from rfl, execReadOutRefused, h]

/-- Settles O51: a read-out ends on a line that is held or given up; the release serves the queue head by head. -/
theorem readOutEnds : Obligations.ReadOutEnds := by
  unfold Obligations.ReadOutEnds
  refine ⟨?_, ?_, fun s l => ⟨State.serve_of_empty, ?_⟩⟩
  · rintro s i x cmd _ hx hk hcmd rfl
    have hon := State.readOutOn_eq hx hk
    rw [exec_readOutCompletes hon, exec_readOutRefused hon]
    refine ⟨fun hheld => ?_, fun hgone => ?_⟩
    · have hkept := State.gaveUp_eq_false_iff.mpr hheld
      constructor
      · simp only [State.readOutEnds, hkept, Bool.false_eq_true, if_false]
      · simp only [State.readOutRefuses, hkept, Bool.false_eq_true, if_false, State.transferFault_eq hcmd]
    · have hgiven := State.gaveUp_iff.mpr hgone
      constructor
      · simp only [State.readOutEnds, hgiven, if_true]
      · simp only [State.readOutRefuses, hgiven, if_true, State.transferFault_eq hcmd]
  · rintro s u l rfl
    exact s.releaseRead_eq l
  · rintro b rest u hq rfl
    refine ⟨State.serve_of_unstable hq, fun hstable => ⟨State.serve_of_waits hq hstable, State.serve_of_conflict hq hstable,
      fun hstarts => ⟨fun hk => ?_, fun hk => ?_, fun hk => ?_, State.serve_of_discard hq hstable hstarts⟩⟩⟩
    · refine State.serve_of_start hq hstable hstarts (State.startBop_read hk) ?_
      rw [State.accessQueue_startRead, State.line_setAccessQueue, if_pos rfl]
    · refine State.serve_of_start hq hstable hstarts (State.startBop_write hk) ?_
      rw [State.accessQueue_startWrite, State.line_setAccessQueue, if_pos rfl]
    · refine State.serve_of_start hq hstable hstarts (State.startBop_pin hk) ?_
      rw [State.accessQueue_startPin, State.line_setAccessQueue, if_pos rfl]

end Sys2Proof.Machine
end

section
/-! PROOFS. The release of an exclusive hold (R9, R64) and the ends of write-ins (R39 to R42): O52, O54. -/

namespace Sys2Proof.Machine

/-! ### Redraws -/

/-- What a redraw makes of its line's state (R64): a REDIRTY line becomes CLEANING with its older epoch. -/
def LineState.redrawn : LineState → LineState
  | .redirty b e _ => .cleaning b e
  | .invalid => .invalid
  | .filling b src => .filling b src
  | .clean b => .clean b
  | .dirty b e => .dirty b e
  | .cleaning b e => .cleaning b e

theorem LineState.redrawn_of_not_redirty {st : LineState} (h : ∀ x e f, st ≠ .redirty x e f) : st.redrawn = st := by
  cases st with
  | redirty x e f => exact absurd rfl (h x e f)
  | _ => rfl

theorem LineState.redrawn_ne_of_redirty {st : LineState} {x : Nat} {e f : Epoch} (h : st = .redirty x e f) :
    st.redrawn ≠ st := by
  subst h
  exact nofun

theorem State.line_promoteWatchers (s : State) (l x : LineId) :
    (s.promoteWatchers l).line x =
      if x = l then { s.line l with watchers := (s.line l).watchers.map fun w => { w with mark := .current } } else s.line x :=
  s.line_setWatchers l x _

/-- The redraw's line: a reader more, all watchers CURRENT, no clean wanted. -/
theorem State.line_beginRedraw (s : State) (i : SlotId) (m : MediaSlot) (x : LineId) :
    (s.beginRedraw i m).line x =
      if x = m.line then { s.line m.line with
        state := (s.line m.line).state.redrawn, readers := (s.line m.line).readers + 1, cleanWanted := false,
        watchers := (s.line m.line).watchers.map fun w => { w with mark := .current } }
      else s.line x := by
  let sent := (s.setSlot i (some (s.freshSlot .drawing .clean m.block m.line (m.attempt + 1) none m.orphan))).mediaSend
    (.writeHeader (requestHeader .clean i (m.attempt + 1) m.block))
  have hheld : ∀ y, (sent.setLine m.line { sent.line m.line with readers := (sent.line m.line).readers + 1 }).line y =
      if y = m.line then { s.line m.line with readers := (s.line m.line).readers + 1 } else s.line y :=
    fun y => sent.line_setLine m.line y _
  unfold State.beginRedraw
  dsimp only
  rw [State.line_promoteWatchers, State.line_unwantClean, State.line_unwantClean, if_pos rfl]
  by_cases hx : x = m.line
  · rw [if_pos hx, if_pos hx]
    cases hst : (s.line m.line).state <;>
      simp only [sent, hheld, hst, if_true, State.line_setLineState, LineState.redrawn]
  · rw [if_neg hx, if_neg hx, if_neg hx]
    cases hst : (s.line m.line).state <;> simp only [sent, hheld, hst, if_true, State.line_setLineState, if_neg hx]

/-! ### The release of an exclusive hold -/

section
variable {s : State} {l : LineId}

theorem State.redrawSlot_eq_none
    (h : ∀ i m, s.slot i = some m → m.line = l → m.orphan = false → m.state ≠ .redrawWait) : s.redrawSlot l = none := by
  refine List.find?_eq_none.mpr fun i _ => ?_
  cases hi : s.slot i with
  | none => exact Bool.false_ne_true
  | some m => simpa [MediaSlot.serves] using h i m hi

theorem State.redrawSlot_eq_some {i : SlotId} {m : MediaSlot} (hi : s.slot i = some m) (hl : m.line = l)
    (horphan : m.orphan = false) (hstate : m.state = .redrawWait)
    (hlowest : ∀ j x, j < i → s.slot j = some x → x.line = l → x.orphan = false → x.state ≠ .redrawWait) :
    s.redrawSlot l = some i := by
  refine find?_finRange_eq_some (by simp [hi, MediaSlot.serves, hl, horphan, hstate]) fun j hj => ?_
  cases hslot : s.slot j with
  | none => rfl
  | some x => simpa [MediaSlot.serves] using hlowest j x hj hslot

theorem State.redrawWaiting_of_none (h : s.redrawSlot l = none) : s.redrawWaiting l = s := by
  simp only [State.redrawWaiting, h]

theorem State.redrawWaiting_of_some {i : SlotId} {m : MediaSlot} (h : s.redrawSlot l = some i) (hi : s.slot i = some m) :
    s.redrawWaiting l = s.beginRedraw i m := by
  simp only [State.redrawWaiting, h, hi]

theorem State.releaseExclusive_eq {v u : State} (hv : v = s.setLine l { s.line l with exclusive := false })
    (hu : v.redrawWaiting l = u) :
    s.releaseExclusive l =
      ((u.serve l).1, decide ((s.line l).readers = 0) || (u.line l).state != (s.line l).state || (u.serve l).2) := by
  subst hv hu
  have hfree : ((s.setLine l { s.line l with exclusive := false }).line l).noHolds = decide ((s.line l).readers = 0) := by
    rw [State.line_setLine_self, Bool.eq_iff_iff, Line.noHolds_iff, decide_eq_true_iff]
    exact and_iff_left rfl
  simp only [State.releaseExclusive, hfree]

/-- A release whose redraw, if one begins, leaves the line's state. -/
theorem State.releaseExclusive_of_kept {v u : State} (hv : v = s.setLine l { s.line l with exclusive := false })
    (hu : v.redrawWaiting l = u) (hkept : (u.line l).state = (s.line l).state) :
    s.releaseExclusive l = ((u.serve l).1, decide ((s.line l).readers = 0) || (u.serve l).2) := by
  rw [State.releaseExclusive_eq hv hu, hkept, bne_self_eq_false, Bool.or_false]

/-- One whose redraw changes it. -/
theorem State.releaseExclusive_of_changed {v u : State} (hv : v = s.setLine l { s.line l with exclusive := false })
    (hu : v.redrawWaiting l = u) (hchanged : (u.line l).state ≠ (s.line l).state) :
    s.releaseExclusive l = ((u.serve l).1, true) := by
  rw [State.releaseExclusive_eq hv hu, bne_iff_ne.mpr hchanged, Bool.or_true, Bool.true_or]

end

/-! ### Write-ins -/

section
variable {s : State} {i : ChannelId} {x : Transfer}

theorem State.writeInOn_eq (h : s.channel i = some x) (hk : x.kind = .writeIn) : s.writeInOn i = some x := by
  simp [State.writeInOn, h, hk]

theorem State.writeInOn_eq_some_iff : s.writeInOn i = some x ↔ s.channel i = some x ∧ x.kind = .writeIn := by
  simp [State.writeInOn, Option.filter_eq_some_iff]

theorem exec_writeInData (h : s.writeInOn i = some x) (p : Nat) (d : List Byte) :
    exec (.writeInData i p d) s = .next (s.dataReturns i x p d) := by
  rw [show exec (.writeInData i p d) s = execWriteInData i p d s from rfl, execWriteInData, h]

theorem exec_writeInData_of_none (h : s.writeInOn i = none) (p : Nat) (d : List Byte) :
    exec (.writeInData i p d) s = .next s := by
  rw [show exec (.writeInData i p d) s = execWriteInData i p d s from rfl, execWriteInData, h]

theorem exec_writeInReadFailed (h : s.writeInOn i = some x) (n : Nat) :
    exec (.writeInReadFailed i n) s = .next (s.readFails i x n) := by
  rw [show exec (.writeInReadFailed i n) s = execWriteInReadFailed i n s from rfl, execWriteInReadFailed, h]

variable {p : Nat} {d : List Byte}

theorem Transfer.length_le_of_takes (h : x.takes p d = true) : d.length ≤ x.outstanding := by
  simp only [Transfer.takes, Bool.and_eq_true, decide_eq_true_eq] at h
  exact h.1.2

theorem State.dataReturns_of_refused (h : x.takes p d = false) : s.dataReturns i x p d = s := if_pos h

variable (h : x.takes p d = true)
include h

theorem State.dataReturns_of_error (herror : x.error = true) :
    s.dataReturns i x p d = if x.outstanding = d.length then s.releaseChannel i
      else s.setChannel i (some { x with outstanding := x.outstanding - d.length }) := by
  have hle := Transfer.length_le_of_takes h
  simp only [State.dataReturns, h, reduceCtorEq, if_false, herror, if_true, State.settleChannel,
    show x.outstanding - d.length = 0 ↔ x.outstanding = d.length by omega]

variable (herror : x.error = false)
include herror

theorem State.dataReturns_of_partial (hpart : x.received + d.length ≠ 4096) :
    s.dataReturns i x p d = s.setChannel i (some (x.place p d)) := by
  have hplaced : (x.place p d).received ≠ 4096 := hpart
  simp only [State.dataReturns, h, herror, reduceCtorEq, Bool.false_eq_true, if_false, hplaced]

variable (hwhole : x.received + d.length = 4096)
include hwhole

theorem State.dataReturns_of_gone (hgone : (s.line x.line).state = .invalid) :
    s.dataReturns i x p d = State.settleIf
      (((s.releaseExclusive x.line).1.completeBop x.bop .fenced).releaseChannel i) (s.releaseExclusive x.line).2 x.line.set := by
  have hplaced : (x.place p d).received = 4096 := hwhole
  have hgiven : s.gaveUp (x.place p d).line = true := State.gaveUp_iff.mpr hgone
  simp only [State.dataReturns, h, herror, reduceCtorEq, Bool.false_eq_true, if_false, hplaced, if_true, hgiven]
  rfl

variable (hheld : (s.line x.line).state ≠ .invalid) {u : State}
  (hu : u = ((s.setFrame x.line ((x.place p d).gather.map Prod.snd)).touchWay x.line).commitLine x.line)
include hheld hu

theorem State.dataReturns_of_whole : s.dataReturns i x p d =
    (((if x.bop.durable then ((if x.bop.durable then u.watchNext x.line x.bop else u).releaseExclusive x.line).1
      else ((if x.bop.durable then u.watchNext x.line x.bop else u).releaseExclusive x.line).1.completeBop x.bop
        .ok).releaseChannel i).settleIf
      ((if x.bop.durable then u.watchNext x.line x.bop else u).releaseExclusive x.line).2 x.line.set) := by
  have hplaced : (x.place p d).received = 4096 := hwhole
  have hkept : s.gaveUp (x.place p d).line = false := State.gaveUp_eq_false_iff.mpr hheld
  subst hu
  simp only [State.dataReturns, h, herror, reduceCtorEq, Bool.false_eq_true, if_false, hplaced, if_true, hkept]
  rfl

end

/-- Settles O52: returned data by the transfer's error and what is received; the release by the redraw that waits. -/
theorem writeInGathersAndCommits : Obligations.WriteInGathersAndCommits := by
  unfold Obligations.WriteInGathersAndCommits
  refine ⟨?_, fun s i p d hnone => ?_, ?_⟩
  · rintro s i x p d _ hx hk htakes rfl
    rw [exec_writeInData (State.writeInOn_eq hx hk)]
    refine ⟨fun herror => ?_, fun herror hpart => ?_, fun herror hwhole hgone => ?_, fun herror hwhole hheld u hu =>
      ⟨fun hdurable => ?_, fun hdurable => ?_⟩⟩
    · rw [State.dataReturns_of_error htakes herror]
    · rw [State.dataReturns_of_partial htakes herror hpart]
    · rw [State.dataReturns_of_gone htakes herror hwhole hgone]
    · simp only [State.dataReturns_of_whole htakes herror hwhole hheld hu, hdurable, Bool.false_eq_true, if_false]
    · simp only [State.dataReturns_of_whole htakes herror hwhole hheld hu, hdurable, if_true]
  · cases hon : s.writeInOn i with
    | none => exact exec_writeInData_of_none hon p d
    | some x =>
      obtain ⟨hx, hk⟩ := State.writeInOn_eq_some_iff.mp hon
      rw [exec_writeInData hon, State.dataReturns_of_refused ((hnone x hx).resolve_left fun h => h hk)]
  · intro s v l hv
    have hslot : ∀ j, v.slot j = s.slot j := fun _ => hv ▸ rfl
    have hstate : (v.line l).state = (s.line l).state := by rw [hv, State.line_setLine_self]
    refine ⟨fun hnone => ?_, fun i m u hi hl horphan hwait hlowest hu => ?_⟩
    · have hquiet : v.redrawSlot l = none := State.redrawSlot_eq_none fun i m hi => hnone i m ((hslot i).symm.trans hi)
      exact State.releaseExclusive_of_kept hv (State.redrawWaiting_of_none hquiet) hstate
    · have hredraw : v.redrawSlot l = some i := State.redrawSlot_eq_some ((hslot i).trans hi) hl horphan hwait
        fun j x hj hx => hlowest j x hj ((hslot j).symm.trans hx)
      have hbegins : v.redrawWaiting l = u := (State.redrawWaiting_of_some hredraw ((hslot i).trans hi)).trans hu.symm
      have hline : (u.line l).state = (s.line l).state.redrawn := by
        rw [hu, ← hl, State.line_beginRedraw, if_pos rfl, hl]
        exact congrArg LineState.redrawn hstate
      refine ⟨fun hkept => ?_, fun x e f hredirty => ?_⟩
      · exact State.releaseExclusive_of_kept hv hbegins (hline.trans (LineState.redrawn_of_not_redirty hkept))
      · exact State.releaseExclusive_of_changed hv hbegins (hline.trans_ne (LineState.redrawn_ne_of_redirty hredirty))

/-! ### Failed reads -/

section
variable {s : State} {i : ChannelId} {x : Transfer} {n : Nat}

theorem State.readFails_of_error (hn : n < x.outstanding) (herror : x.error = true) :
    s.readFails i x n = if n = 0 then s.releaseChannel i else s.setChannel i (some { x with outstanding := n }) := by
  simp only [State.readFails, Nat.not_le.mpr hn, if_false, herror, if_true, State.settleChannel]

theorem State.readFails_of_first (hn : n < x.outstanding) (herror : x.error = false) {cmd : Command}
    (hcmd : s.command x.bop.ctx = some cmd) :
    s.readFails i x n = State.settleIf
      (State.settleChannel (State.reportFault ((s.releaseFailed x.line).1.completeBop x.bop
          (if (s.line x.line).state = .invalid then .fenced else .hostBusError))
        (.hostBus x.address .writeIn cmd.sr (Rec.commandId cmd.record))) i
        { x with gather := [], error := true, outstanding := n })
      (s.releaseFailed x.line).2 x.line.set := by
  have hfails : s.readFails i x n = s.writeInFails i x n := by
    simp only [State.readFails, Nat.not_le.mpr hn, if_false, herror, Bool.false_eq_true]
  rw [hfails]
  simp only [State.writeInFails, State.transferFault_eq hcmd, State.gaveUp_iff]

end

/-- One step of the relookup of a detached queue. -/
theorem relookDetached_cons {s t : State} {b : Bop} {e : LookupEnd} (h : s.lookupBop .detached b = (t, e)) (bs : List Bop) :
    relookDetached (b :: bs) s = relookDetached bs t := by
  rw [relookDetached, h]

/-- Settles O54: the first failed read and the later ones; a detached queue goes by the lookup of each of its block operations. -/
theorem writeInFails : Obligations.WriteInFails := by
  unfold Obligations.WriteInFails
  refine ⟨?_, fun s => rfl, ?_⟩
  · rintro s i x n _ hx hk hn rfl
    rw [exec_writeInReadFailed (State.writeInOn_eq hx hk)]
    refine ⟨fun cmd hcmd herror => ?_, fun herror => ?_, fun hfilling => if_pos hfilling,
      fun hstable => if_neg (by rw [hstable]; exact Bool.false_ne_true)⟩
    · rw [State.readFails_of_first hn herror hcmd]
    · rw [State.readFails_of_error hn herror]
  · rintro s _ b bs rfl
    refine ⟨fun hfence => relookDetached_cons (State.lookupBop_of_fenced hfence) bs,
      fun w hfence hbad => relookDetached_cons (State.lookupBop_of_bad hfence hbad) bs, fun hfence hgood => ⟨fun hmiss => ?_, ?_⟩⟩
    · have hmissed := State.lookupBop_of_miss (m := .detached) hfence hgood hmiss
      refine ⟨fun hk => ?_, fun hk hlink => ?_, fun hseeks hnone => ?_, ?_⟩
      · exact relookDetached_cons (hmissed.trans (State.lookupMiss_ok (.inl hk))) bs
      · exact relookDetached_cons (hmissed.trans (State.lookupMiss_offline hk hlink)) bs
      · exact relookDetached_cons (hmissed.trans ((State.lookupMiss_seeks hseeks).trans
          (State.seekVictim_of_stalled (.inr ⟨nofun, hnone⟩)))) bs
      · rintro w _ hvictim rfl
        have htaken := State.seekVictim_of_victim (m := .detached) nofun hvictim
        refine ⟨fun hk hlink => ?_, fun hk => ?_⟩
        · rw [← State.allocate_fill hk]
          exact relookDetached_cons (hmissed.trans ((State.lookupMiss_seeks (.inl ⟨hk, hlink⟩)).trans htaken)) bs
        · rw [← State.allocate_write hk]
          exact relookDetached_cons (hmissed.trans ((State.lookupMiss_seeks (.inr hk)).trans htaken)) bs
    · rintro w _ hhit rfl hk hfilling
      exact relookDetached_cons ((State.lookupBop_of_queued hfence hgood hhit hk).trans
        (State.queuedHit_of_unstable (LineState.isStable_of_isFilling hfilling))) bs

end Sys2Proof.Machine
end

section
/-! PROOFS. What giving a line up and fencing a set do (R66, R97, R157 to R159), part by part of the state; the facts O48, O57, O58 and O59
use of it. -/

namespace Sys2Proof.Machine

/-! ### Changes of the ways of one set -/

/-- Of the directory only the ways of the set have changed, to those given. -/
structure State.ChangesWays (s t : State) (S : SetId) (g : WayId → Line) : Prop where
  line : ∀ v, t.line ⟨S, v⟩ = g v
  other : ∀ R, R ≠ S → t.cacheSet R = s.cacheSet R
  fence : (t.cacheSet S).fence = (s.cacheSet S).fence
  waitList : (t.cacheSet S).waitList = (s.cacheSet S).waitList
  recency : (t.cacheSet S).recency = (s.cacheSet S).recency

namespace State.ChangesWays

variable {s t u : State} {S : SetId} {g f : WayId → Line}

theorem of_directory (h : t.directory = s.directory) : s.ChangesWays t S fun v => s.line ⟨S, v⟩ where
  line _ := line_of_directory h _
  other R _ := cacheSet_of_directory h R
  fence := by rw [cacheSet_of_directory h]
  waitList := by rw [cacheSet_of_directory h]
  recency := by rw [cacheSet_of_directory h]

theorem trans (h : s.ChangesWays t S g) (k : t.ChangesWays u S f) : s.ChangesWays u S f where
  line := k.line
  other R hR := (k.other R hR).trans (h.other R hR)
  fence := k.fence.trans h.fence
  waitList := k.waitList.trans h.waitList
  recency := k.recency.trans h.recency

theorem congr (h : s.ChangesWays t S g) (e : ∀ v, g v = f v) : s.ChangesWays t S f := by
  rwa [← funext e]

theorem same (h : s.ChangesWays t S g) (e : u.directory = t.directory) : s.ChangesWays u S g :=
  h.trans ((of_directory e).congr h.line)

theorem line_of_other (h : s.ChangesWays t S g) {x : LineId} (hx : x.set ≠ S) : t.line x = s.line x := by
  simp only [State.line, h.other x.set hx]

theorem isFenced (h : s.ChangesWays t S g) (R : SetId) : t.isFenced R = s.isFenced R := by
  unfold State.isFenced
  by_cases hR : R = S
  · rw [hR, h.fence]
  · rw [h.other R hR]

/-- The same change of each way of a list, made by an operation that changes one way and keeps the condition. -/
theorem foldl {P : State → Prop} {op : State → WayId → State} {g : Line → Line}
    (hop : ∀ s v, P s → P (op s v) ∧
      s.ChangesWays (op s v) S (Function.update (fun v => s.line ⟨S, v⟩) v (g (s.line ⟨S, v⟩))))
    {vs : List WayId} (hvs : vs.Nodup) {s : State} (hs : P s) :
    P (vs.foldl op s) ∧
      s.ChangesWays (vs.foldl op s) S fun v => if v ∈ vs then g (s.line ⟨S, v⟩) else s.line ⟨S, v⟩ := by
  induction vs generalizing s with
  | nil => exact ⟨hs, (of_directory rfl).congr fun v => (if_neg List.not_mem_nil).symm⟩
  | cons w vs ih =>
    obtain ⟨hw, hvs⟩ := List.nodup_cons.mp hvs
    obtain ⟨hkept, hfirst⟩ := hop s w hs
    obtain ⟨hend, hrest⟩ := ih hvs hkept
    refine ⟨hend, (hfirst.trans hrest).congr fun v => ?_⟩
    rw [hfirst.line]
    by_cases hv : v = w
    · subst hv
      rw [if_neg hw, if_pos List.mem_cons_self, Function.update_self]
    · simp only [Function.update_of_ne hv, List.mem_cons, hv, false_or]

end State.ChangesWays

/-- Of the directory only one line has changed, to the one given. -/
def State.ChangesLine (s t : State) (l : LineId) (ln : Line) : Prop :=
  s.ChangesWays t l.set (Function.update (fun v => s.line ⟨l.set, v⟩) l.way ln)

namespace State.ChangesLine

variable {s t u : State} {l : LineId} {a b : Line}

theorem ways (h : s.ChangesLine t l a) : s.ChangesWays t l.set (Function.update (fun v => s.line ⟨l.set, v⟩) l.way a) := h

theorem line (h : s.ChangesLine t l a) : t.line l = a := (h.ways.line l.way).trans (Function.update_self ..)

theorem line_ne (h : s.ChangesLine t l a) {x : LineId} (hx : x ≠ l) : t.line x = s.line x := by
  by_cases hset : x.set = l.set
  · have hway : x.way ≠ l.way := fun e => hx (congrArg₂ LineId.mk hset e)
    have hx' := h.ways.line x.way
    rwa [Function.update_of_ne hway, ← hset] at hx'
  · exact h.ways.line_of_other hset

theorem of_directory (h : t.directory = s.directory) : s.ChangesLine t l (s.line l) :=
  (ChangesWays.of_directory h).congr fun v =>
    (congrFun (Function.update_eq_self l.way fun v => s.line ⟨l.set, v⟩) v).symm

theorem same (h : s.ChangesLine t l a) (e : u.directory = t.directory) : s.ChangesLine u l a := ChangesWays.same h e

theorem of_setLine (s : State) (l : LineId) (ln : Line) : s.ChangesLine (s.setLine l ln) l ln where
  line v := by
    rw [line_setLine]
    by_cases hv : v = l.way
    · rw [hv, if_pos rfl, Function.update_self]
    · rw [if_neg fun e => hv (by rw [← e]), Function.update_of_ne hv]
  other R hR := by rw [cacheSet_setLine, if_neg hR]
  fence := fence_setLine s l ln l.set
  waitList := waitList_setLine s l ln l.set
  recency := recency_setLine s l ln l.set

theorem trans (h : s.ChangesLine t l a) (k : t.ChangesLine u l b) : s.ChangesLine u l b :=
  (h.ways.trans k.ways).congr fun v => by
    by_cases hv : v = l.way
    · rw [hv, Function.update_self, Function.update_self]
    · rw [Function.update_of_ne hv, Function.update_of_ne hv, h.ways.line, Function.update_of_ne hv]

/-- A further change of the line as it stands. -/
theorem set (h : s.ChangesLine t l a) (f : Line → Line) : s.ChangesLine (t.setLine l (f (t.line l))) l (f a) :=
  h.line ▸ h.trans (of_setLine t l _)

theorem enterInvalid (h : s.ChangesLine t l a) : s.ChangesLine (t.enterInvalid l) l
    { a with state := .invalid, checkBad := false, pins := 0, cleanWanted := false } :=
  h.set fun ln => { ln with state := .invalid, checkBad := false, pins := 0, cleanWanted := false }

end State.ChangesLine

/-! ### What completes, and what stays -/

/-- From `s` to `t` the block operations complete with the status in order, and the capture table, the engine and the frame store stay as
they were. -/
structure State.Completes (st : Status) (s t : State) (q : List Bop) : Prop where
  commands : t.commands = (completeAll st q s).commands
  rings : t.rings = (completeAll st q s).rings
  host : t.host = (completeAll st q s).host
  faults : t.faults = s.faults
  engine : t.engine = s.engine
  frames : t.frames = s.frames

namespace State.Completes

variable {st : Status} {s t u : State} {q r : List Bop}

theorem refl (s : State) : s.Completes st s [] := ⟨rfl, rfl, rfl, rfl, rfl, rfl⟩

theorem setCacheSet (s : State) (S : SetId) (cs : CacheSet) : s.Completes st (s.setCacheSet S cs) [] :=
  ⟨rfl, rfl, rfl, rfl, rfl, rfl⟩

theorem setLine (s : State) (l : LineId) (ln : Line) : s.Completes st (s.setLine l ln) [] := setCacheSet s _ _

theorem completeAll (s : State) : s.Completes st (completeAll st q s) q :=
  have h := SameCore.completeAll st q s
  ⟨rfl, rfl, rfl, h.faults, h.engine, h.frames⟩

theorem trans (h : s.Completes st t q) (k : t.Completes st u r) : s.Completes st u (q ++ r) := by
  have hrest : Machine.completeAll st r t = (Machine.completeAll st r (Machine.completeAll st q s)).withRest t := by
    rw [← completeAll_withRest]
    congr 1
    rw [State.withRest, ← h.commands, ← h.rings, ← h.host]
  refine ⟨?_, ?_, ?_, k.faults.trans h.faults, k.engine.trans h.engine, k.frames.trans h.frames⟩
  · rw [k.commands, hrest, completeAll_append, withRest_commands]
  · rw [k.rings, hrest, completeAll_append, withRest_rings]
  · rw [k.host, hrest, completeAll_append, withRest_host]

theorem quiet (h : s.Completes st t q) (k : t.Completes st u []) : s.Completes st u q := by
  simpa using h.trans k

theorem foldl {α : Type} {op : State → α → State} (hop : ∀ (s : State) x, s.Completes st (op s x) []) (xs : List α) (s : State) :
    s.Completes st (xs.foldl op s) [] := by
  induction xs generalizing s with
  | nil => exact refl s
  | cons x xs ih => exact (hop s x).quiet (ih _)

theorem giveUpUnclean (s : State) (l : LineId) : s.Completes st (s.giveUpUnclean l) [] := by
  cases h : (s.line l).state.epoch with
  | none =>
    rw [giveUpUnclean_of_clean s l h]
    exact refl s
  | some e =>
    rw [giveUpUnclean_eq s l e h]
    exact ⟨rfl, rfl, rfl, rfl, rfl, rfl⟩

theorem wantClean (s : State) (l : LineId) : s.Completes st (s.wantClean l) [] := by
  unfold State.wantClean
  split <;> exact ⟨rfl, rfl, rfl, rfl, rfl, rfl⟩

theorem salvage (s : State) (l : LineId) : s.Completes st (s.salvage l) [] := by
  unfold State.salvage
  split
  · exact wantClean s l
  · exact refl s

end State.Completes

/-! ### A line that is given up -/

theorem State.giveUpUnclean_changesLine (s : State) (l : LineId) :
    ∃ c, s.ChangesLine (s.giveUpUnclean l) l { s.line l with cleanWanted := c } := by
  cases h : (s.line l).state.epoch with
  | none =>
    rw [giveUpUnclean_of_clean s l h]
    exact ⟨_, .of_directory rfl⟩
  | some e =>
    rw [giveUpUnclean_eq s l e h]
    exact ⟨false, (State.ChangesLine.of_setLine s l _).same rfl⟩

/-- R97 for one slot: what it holds when line `l` is given up. -/
def orphaned (l : LineId) : Option MediaSlot → Option MediaSlot
  | some m =>
    if m.serves l then
      match m.state with
      | .drawing | .awaiting => some { m with orphan := true }
      | .backoff | .redrawWait => none
    else some m
  | none => none

theorem State.orphanSlot_eq (s : State) (l : LineId) (i : SlotId) : s.orphanSlot l i = s.setSlot i (orphaned l (s.slot i)) := by
  have hsame : s.setSlot i (s.slot i) = s := by
    unfold State.setSlot State.slot
    rw [Fin.getElem_fin, Vector.set_getElem_self]
  unfold State.orphanSlot orphaned
  cases h : s.slot i with
  | none =>
    rw [h] at hsame
    exact hsame.symm
  | some m =>
    dsimp only
    rw [h] at hsame
    split
    · cases m.state <;> rfl
    · exact hsame.symm

/-- The slots after the orphaning of those of a list; the rest of the state stays. -/
theorem State.foldl_orphanSlot (l : LineId) {is : List SlotId} (his : is.Nodup) (s : State) :
    is.foldl (fun s i => s.orphanSlot l i) s =
        { s with media := { s.media with slots := (is.foldl (fun s i => s.orphanSlot l i) s).media.slots } } ∧
      ∀ j, (is.foldl (fun s i => s.orphanSlot l i) s).slot j = if j ∈ is then orphaned l (s.slot j) else s.slot j := by
  induction is generalizing s with
  | nil => exact ⟨rfl, fun j => (if_neg List.not_mem_nil).symm⟩
  | cons i is ih =>
    obtain ⟨hi, his⟩ := List.nodup_cons.mp his
    obtain ⟨hrest, hslots⟩ := ih his (s.orphanSlot l i)
    rw [List.foldl_cons]
    refine ⟨?_, fun j => ?_⟩
    · rw [hrest, orphanSlot_eq]
      rfl
    · rw [hslots, orphanSlot_eq]
      by_cases hj : j = i
      · subst hj
        rw [if_neg hi, if_pos List.mem_cons_self, slot_setSlot_self]
      · simp only [slot_setSlot_ne _ _ _ _ (Ne.symm hj), List.mem_cons, hj, false_or]

section
variable (s : State) (l : LineId)

theorem State.slot_enterInvalid (i : SlotId) : (s.enterInvalid l).slot i = s.slot i := rfl

theorem State.giveUpUnclean_media : (s.giveUpUnclean l).media = s.media := by
  cases h : (s.line l).state.epoch with
  | none => rw [giveUpUnclean_of_clean s l h]
  | some e =>
    rw [giveUpUnclean_eq s l e h]
    rfl

/-- The line's write-back account is given up and its watchers have completed (R66, R158). -/
def State.unwatched : State :=
  completeAll .fenced ((s.line l).watchers.map Watcher.bop) ((s.giveUpUnclean l).setWatchers l [])

theorem State.sameCore_unwatched : ((s.giveUpUnclean l).setWatchers l []).SameCore (s.unwatched l) :=
  SameCore.completeAll _ _ _

theorem State.unwatched_media : (s.unwatched l).media = s.media :=
  (s.sameCore_unwatched l).media.trans (s.giveUpUnclean_media l)

theorem State.unwatched_writeBack : (s.unwatched l).writeBack = (s.giveUpUnclean l).writeBack :=
  (s.sameCore_unwatched l).writeBack

theorem State.unwatched_changesLine :
    ∃ c, s.ChangesLine (s.unwatched l) l { s.line l with cleanWanted := c, watchers := [] } := by
  obtain ⟨c, hgiven⟩ := s.giveUpUnclean_changesLine l
  exact ⟨c, (hgiven.set fun ln => { ln with watchers := [] }).same (s.sameCore_unwatched l).directory⟩

theorem State.unwatched_completes : s.Completes .fenced (s.unwatched l) ((s.line l).watchers.map (·.bop)) :=
  ((Completes.giveUpUnclean s l).quiet (.setLine _ l _)).trans (.completeAll _)

/-- Its access queue has completed too, and it has left the fill queue (R158). -/
def State.emptied : State :=
  let s := completeAll .fenced (s.line l).accessQueue ((s.unwatched l).setAccessQueue l [])
  { s with media := { s.media with fillQueue := s.media.fillQueue.filter (· != l) } }

theorem State.sameCore_emptied : ((s.unwatched l).setAccessQueue l []).SameCore
    (completeAll .fenced (s.line l).accessQueue ((s.unwatched l).setAccessQueue l [])) := SameCore.completeAll _ _ _

theorem State.emptied_media :
    (s.emptied l).media = { s.media with fillQueue := s.media.fillQueue.filter (· != l) } := by
  simp only [State.emptied, (s.sameCore_emptied l).media.trans (s.unwatched_media l)]

theorem State.emptied_writeBack : (s.emptied l).writeBack = (s.giveUpUnclean l).writeBack :=
  (s.sameCore_emptied l).writeBack.trans (s.unwatched_writeBack l)

theorem State.emptied_changesLine :
    ∃ c, s.ChangesLine (s.emptied l) l { s.line l with cleanWanted := c, watchers := [], accessQueue := [] } := by
  obtain ⟨c, hunwatched⟩ := s.unwatched_changesLine l
  exact ⟨c, (hunwatched.set fun ln => { ln with accessQueue := [] }).same (s.sameCore_emptied l).directory⟩

theorem State.emptied_completes :
    s.Completes .fenced (s.emptied l) ((s.line l).watchers.map (·.bop) ++ (s.line l).accessQueue) := by
  have hunqueued := ((s.unwatched_completes l).quiet (.setLine _ l _)).trans
    (.completeAll (q := (s.line l).accessQueue) ((s.unwatched l).setAccessQueue l []))
  exact hunqueued.quiet ⟨rfl, rfl, rfl, rfl, rfl, rfl⟩

/-- The slots that refer to it have become orphans or FREE (R97). -/
def State.slotsGivenUp : State := (List.finRange 32).foldl (fun s i => s.orphanSlot l i) (s.emptied l)

theorem State.giveUpFailedWay_eq : s.giveUpFailedWay l = (s.slotsGivenUp l).enterInvalid l := rfl

theorem State.slotsGivenUp_slot (i : SlotId) : (s.slotsGivenUp l).slot i = orphaned l (s.slot i) := by
  refine ((foldl_orphanSlot l (List.nodup_finRange 32) (s.emptied l)).2 i).trans ?_
  rw [if_pos (List.mem_finRange i), State.slot, State.emptied_media]
  rfl

theorem State.slotsGivenUp_eq : s.slotsGivenUp l =
    { s.emptied l with media := { (s.emptied l).media with slots := (s.slotsGivenUp l).media.slots } } := by
  unfold State.slotsGivenUp
  exact (foldl_orphanSlot l (List.nodup_finRange 32) (s.emptied l)).1

theorem State.slotsGivenUp_directory : (s.slotsGivenUp l).directory = (s.emptied l).directory := by
  rw [slotsGivenUp_eq]

theorem State.slotsGivenUp_completes : (s.emptied l).Completes .fenced (s.slotsGivenUp l) [] := by
  rw [slotsGivenUp_eq]
  exact ⟨rfl, rfl, rfl, rfl, rfl, rfl⟩

/-! ### R158 -/

theorem State.giveUpFailedWay_slot (i : SlotId) : (s.giveUpFailedWay l).slot i = orphaned l (s.slot i) := by
  rw [giveUpFailedWay_eq, slot_enterInvalid, slotsGivenUp_slot]

theorem State.giveUpFailedWay_fillQueue : (s.giveUpFailedWay l).media.fillQueue = s.media.fillQueue.filter (· != l) := by
  rw [giveUpFailedWay_eq, enterInvalid_media, slotsGivenUp_eq, emptied_media]

theorem State.giveUpFailedWay_link : (s.giveUpFailedWay l).media.link = s.media.link :=
  (Thins.giveUpFailedWay s l).link

theorem State.giveUpFailedWay_writeBack : (s.giveUpFailedWay l).writeBack = (s.giveUpUnclean l).writeBack := by
  rw [giveUpFailedWay_eq, enterInvalid_writeBack, slotsGivenUp_eq, emptied_writeBack]

theorem State.giveUpFailedWay_changesLine : s.ChangesLine (s.giveUpFailedWay l) l { s.line l with
    state := .invalid, checkBad := false, pins := 0, cleanWanted := false, accessQueue := [], watchers := [] } := by
  obtain ⟨c, hemptied⟩ := s.emptied_changesLine l
  rw [giveUpFailedWay_eq]
  exact (hemptied.same (s.slotsGivenUp_directory l)).enterInvalid

theorem State.giveUpFailedWay_completes :
    s.Completes .fenced (s.giveUpFailedWay l) ((s.line l).watchers.map (·.bop) ++ (s.line l).accessQueue) := by
  rw [giveUpFailedWay_eq]
  exact ((s.emptied_completes l).quiet (s.slotsGivenUp_completes l)).quiet (.setLine _ l _)

end

end Sys2Proof.Machine
end

section
/-! PROOFS. What fencing a set does, step by step of R157 to R159. -/

namespace Sys2Proof.Machine

/-! ### The intact ways -/

theorem mem_otherWays {v w : WayId} : v ∈ otherWays w ↔ v ≠ w := by
  simp [otherWays, List.mem_finRange]

theorem otherWays_nodup (w : WayId) : (otherWays w).Nodup := (List.nodup_finRange 8).filter _

theorem State.sameCore_fenceQueue (s : State) (l : LineId) : (s.setAccessQueue l []).SameCore (s.fenceQueue l) :=
  SameCore.completeAll _ _ _

theorem State.fenceQueue_changesLine (s : State) (l : LineId) :
    s.ChangesLine (s.fenceQueue l) l { s.line l with accessQueue := [] } :=
  (ChangesLine.of_setLine s l _).same (s.sameCore_fenceQueue l).directory

theorem State.fenceQueue_completes (s : State) (l : LineId) :
    s.Completes .fenced (s.fenceQueue l) (s.line l).accessQueue :=
  (Completes.setLine s l _).trans (.completeAll _)

theorem State.foldl_fenceQueue_completes (S : SetId) {vs : List WayId} (hvs : vs.Nodup) (s : State) :
    s.Completes .fenced (vs.foldl (fun s v => s.fenceQueue ⟨S, v⟩) s) (vs.flatMap fun v => (s.line ⟨S, v⟩).accessQueue) := by
  induction vs generalizing s with
  | nil => exact .refl s
  | cons v vs ih =>
    obtain ⟨hv, hvs⟩ := List.nodup_cons.mp hvs
    have hrest := ih hvs (s.fenceQueue ⟨S, v⟩)
    have hlines : vs.flatMap (fun u => ((s.fenceQueue ⟨S, v⟩).line ⟨S, u⟩).accessQueue) =
        vs.flatMap fun u => (s.line ⟨S, u⟩).accessQueue :=
      List.flatMap_congr fun u hu => by
        rw [(s.fenceQueue_changesLine ⟨S, v⟩).line_ne fun e => hv ((LineId.mk.inj e).2 ▸ hu)]
    rw [List.flatMap_cons, ← hlines]
    exact (s.fenceQueue_completes ⟨S, v⟩).trans hrest

/-- The access queues of ways completed with FENCED (R159): the lines, the Write-Back Unit and the Media Port. -/
theorem State.foldl_fenceQueue (S : SetId) {vs : List WayId} (hvs : vs.Nodup) (s : State) :
    ((vs.foldl (fun s v => s.fenceQueue ⟨S, v⟩) s).writeBack = s.writeBack ∧
      (vs.foldl (fun s v => s.fenceQueue ⟨S, v⟩) s).media = s.media) ∧
    s.ChangesWays (vs.foldl (fun s v => s.fenceQueue ⟨S, v⟩) s) S fun v =>
      if v ∈ vs then { s.line ⟨S, v⟩ with accessQueue := [] } else s.line ⟨S, v⟩ :=
  ChangesWays.foldl (P := fun t => t.writeBack = s.writeBack ∧ t.media = s.media) (g := fun ln => { ln with accessQueue := [] })
    (fun t v ht => ⟨⟨(t.sameCore_fenceQueue _).writeBack.trans ht.1, (t.sameCore_fenceQueue _).media.trans ht.2⟩,
      t.fenceQueue_changesLine ⟨S, v⟩⟩) hvs ⟨rfl, rfl⟩

/-! ### Salvage -/

theorem State.wantClean_changesLine (s : State) (l : LineId) :
    s.ChangesLine (s.wantClean l) l { s.line l with cleanWanted := true } := by
  cases hwanted : (s.line l).cleanWanted with
  | false =>
    rw [wantClean_of_unwanted hwanted]
    exact (ChangesLine.of_setLine s l _).same rfl
  | true =>
    have hsame : s.wantClean l = s := if_pos hwanted
    have hline : ({ s.line l with cleanWanted := true } : Line) = s.line l := by rw [← hwanted]
    rw [hsame, hline]
    exact .of_directory rfl

theorem State.salvage_changesLine (s : State) (l : LineId) : s.ChangesLine (s.salvage l) l
    { s.line l with cleanWanted := (s.line l).cleanWanted || (s.line l).state.isDirty } := by
  unfold State.salvage
  cases (s.line l).state.isDirty with
  | true =>
    rw [if_pos rfl, Bool.or_true]
    exact s.wantClean_changesLine l
  | false =>
    rw [if_neg Bool.false_ne_true, Bool.or_false]
    exact .of_directory rfl

theorem State.salvage_media (s : State) (l : LineId) : (s.salvage l).media = s.media := by
  unfold State.salvage State.wantClean
  split
  · split <;> rfl
  · rfl

theorem State.salvage_writeBack (s : State) (l : LineId) : (s.salvage l).writeBack = { s.writeBack with
    urgent := if (s.line l).state.isDirty && !(s.line l).cleanWanted then s.writeBack.urgent ++ [l] else s.writeBack.urgent } := by
  unfold State.salvage
  cases (s.line l).state.isDirty with
  | true =>
    rw [if_pos rfl, wantClean_writeBack]
    cases (s.line l).cleanWanted <;> rfl
  | false => rfl

theorem State.foldl_salvage (S : SetId) {vs : List WayId} (hvs : vs.Nodup) (s : State) :
    (vs.foldl (fun s v => s.salvage ⟨S, v⟩) s).media = s.media ∧
    s.ChangesWays (vs.foldl (fun s v => s.salvage ⟨S, v⟩) s) S fun v =>
      if v ∈ vs then
        { s.line ⟨S, v⟩ with cleanWanted := (s.line ⟨S, v⟩).cleanWanted || (s.line ⟨S, v⟩).state.isDirty }
      else s.line ⟨S, v⟩ :=
  ChangesWays.foldl (P := fun t => t.media = s.media)
    (g := fun ln => { ln with cleanWanted := ln.cleanWanted || ln.state.isDirty })
    (fun t v ht => ⟨(t.salvage_media _).trans ht, t.salvage_changesLine ⟨S, v⟩⟩) hvs rfl

theorem State.foldl_salvage_writeBack (S : SetId) {vs : List WayId} (hvs : vs.Nodup) (s : State) :
    (vs.foldl (fun s v => s.salvage ⟨S, v⟩) s).writeBack = { s.writeBack with
      urgent := s.writeBack.urgent ++
        (vs.filter fun v => (s.line ⟨S, v⟩).state.isDirty && !(s.line ⟨S, v⟩).cleanWanted).map (LineId.mk S) } := by
  induction vs generalizing s with
  | nil => simp only [List.foldl_nil, List.filter_nil, List.map_nil, List.append_nil]
  | cons v vs ih =>
    obtain ⟨hv, hvs⟩ := List.nodup_cons.mp hvs
    have hlines : vs.filter (fun u => ((s.salvage ⟨S, v⟩).line ⟨S, u⟩).state.isDirty &&
          !((s.salvage ⟨S, v⟩).line ⟨S, u⟩).cleanWanted) =
        vs.filter fun u => (s.line ⟨S, u⟩).state.isDirty && !(s.line ⟨S, u⟩).cleanWanted :=
      List.filter_congr fun u hu => by
        rw [(s.salvage_changesLine ⟨S, v⟩).line_ne fun e => hv ((LineId.mk.inj e).2 ▸ hu)]
    rw [List.foldl_cons, ih hvs, hlines, salvage_writeBack]
    cases hjoins : (s.line ⟨S, v⟩).state.isDirty && !(s.line ⟨S, v⟩).cleanWanted with
    | true =>
      rw [List.filter_cons_of_pos (p := fun v => (s.line ⟨S, v⟩).state.isDirty && !(s.line ⟨S, v⟩).cleanWanted) hjoins]
      simp only [if_true, List.append_assoc, List.singleton_append, List.map_cons]
    | false =>
      rw [List.filter_cons_of_neg (p := fun v => (s.line ⟨S, v⟩).state.isDirty && !(s.line ⟨S, v⟩).cleanWanted)
        (by rw [hjoins]; exact Bool.false_ne_true)]
      simp only [Bool.false_eq_true, if_false]

/-! ### Fencing, in its steps -/

section
variable (s : State) (S : SetId) (w : WayId)

/-- The fence record is set (R157). -/
def State.fenceRecorded : State :=
  s.setFence S { (s.cacheSet S).fence with failedWay := some w, lost := (s.line ⟨S, w⟩).state.isUnclean }

/-- The failed way is given up and the intact ways' access queues have completed. -/
def State.waysFenced : State :=
  (otherWays w).foldl (fun s v => s.fenceQueue ⟨S, v⟩) ((s.fenceRecorded S w).giveUpFailedWay ⟨S, w⟩)

/-- The wait list has completed too. -/
def State.waitersFenced : State :=
  completeAll .fenced ((s.waysFenced S w).cacheSet S).waitList ((s.waysFenced S w).setWaitList S [])

/-- The intact ways are salvaged. -/
def State.waysSalvaged : State := (otherWays w).foldl (fun s v => s.salvage ⟨S, v⟩) (s.waitersFenced S w)

theorem State.fenceSet_eq :
    s.fenceSet S w = (s.waysSalvaged S w).reportFault (.integrity S w (s.line ⟨S, w⟩).state.isUnclean) := rfl

theorem State.cacheSet_fenceRecorded_self : (s.fenceRecorded S w).cacheSet S = { s.cacheSet S with
    fence := { (s.cacheSet S).fence with failedWay := some w, lost := (s.line ⟨S, w⟩).state.isUnclean } } :=
  s.cacheSet_setCacheSet_self S _

theorem State.cacheSet_fenceRecorded_ne {R : SetId} (h : R ≠ S) : (s.fenceRecorded S w).cacheSet R = s.cacheSet R :=
  s.cacheSet_setCacheSet_ne S R _ h.symm

theorem State.line_fenceRecorded (x : LineId) : (s.fenceRecorded S w).line x = s.line x := by
  unfold State.line
  by_cases h : x.set = S
  · rw [h, cacheSet_fenceRecorded_self]
  · rw [cacheSet_fenceRecorded_ne s S w h]

/-- What the intact ways and the failed one are after their queues have completed. -/
def State.fencedWay (v : WayId) : Line :=
  if v = w then { s.line ⟨S, w⟩ with
    state := .invalid, checkBad := false, pins := 0, cleanWanted := false, accessQueue := [], watchers := [] }
  else { s.line ⟨S, v⟩ with accessQueue := [] }

theorem State.fencedWay_self : s.fencedWay S w w = { s.line ⟨S, w⟩ with
    state := .invalid, checkBad := false, pins := 0, cleanWanted := false, accessQueue := [], watchers := [] } := if_pos rfl

theorem State.fencedWay_ne {v : WayId} (h : v ≠ w) : s.fencedWay S w v = { s.line ⟨S, v⟩ with accessQueue := [] } := if_neg h

theorem State.giveUpFailedWay_fenceRecorded_line (v : WayId) :
    ((s.fenceRecorded S w).giveUpFailedWay ⟨S, w⟩).line ⟨S, v⟩ =
      if v = w then s.fencedWay S w w else s.line ⟨S, v⟩ := by
  have hgiven := (s.fenceRecorded S w).giveUpFailedWay_changesLine ⟨S, w⟩
  rw [line_fenceRecorded] at hgiven
  by_cases hv : v = w
  · rw [hv, if_pos rfl, hgiven.line, fencedWay_self]
  · rw [if_neg hv, hgiven.line_ne fun e => hv (LineId.mk.inj e).2, line_fenceRecorded]

theorem State.waysFenced_changesWays : (s.fenceRecorded S w).ChangesWays (s.waysFenced S w) S (s.fencedWay S w) := by
  have hgiven := (s.fenceRecorded S w).giveUpFailedWay_changesLine ⟨S, w⟩
  refine (hgiven.ways.trans (foldl_fenceQueue S (otherWays_nodup w) _).2).congr fun v => ?_
  rw [giveUpFailedWay_fenceRecorded_line]
  by_cases hv : v = w
  · rw [hv, if_neg (mt mem_otherWays.mp (not_not.mpr rfl)), if_pos rfl]
  · rw [if_pos (mem_otherWays.mpr hv), if_neg hv, fencedWay_ne s S w hv]

theorem State.sameCore_waitersFenced : ((s.waysFenced S w).setWaitList S []).SameCore (s.waitersFenced S w) :=
  SameCore.completeAll _ _ _

theorem State.line_waitersFenced (v : WayId) : (s.waitersFenced S w).line ⟨S, v⟩ = s.fencedWay S w v := by
  rw [(s.sameCore_waitersFenced S w).line, line_setWaitList, (s.waysFenced_changesWays S w).line]

theorem State.cacheSet_waitersFenced_self :
    (s.waitersFenced S w).cacheSet S = { (s.waysFenced S w).cacheSet S with waitList := [] } := by
  rw [(s.sameCore_waitersFenced S w).cacheSet, cacheSet_setWaitList_self]

theorem State.cacheSet_waitersFenced_ne {R : SetId} (h : R ≠ S) : (s.waitersFenced S w).cacheSet R = s.cacheSet R := by
  rw [(s.sameCore_waitersFenced S w).cacheSet, setWaitList, cacheSet_setCacheSet_ne _ _ _ _ h.symm,
    (s.waysFenced_changesWays S w).other R h, cacheSet_fenceRecorded_ne s S w h]

theorem State.waysSalvaged_changesWays : (s.waitersFenced S w).ChangesWays (s.waysSalvaged S w) S fun v =>
    if v = w then s.fencedWay S w w
    else { s.line ⟨S, v⟩ with
      accessQueue := [], cleanWanted := (s.line ⟨S, v⟩).cleanWanted || (s.line ⟨S, v⟩).state.isDirty } :=
  (foldl_salvage S (otherWays_nodup w) (s.waitersFenced S w)).2.congr fun v => by
    rw [line_waitersFenced]
    by_cases hv : v = w
    · rw [hv, if_neg (mt mem_otherWays.mp (not_not.mpr rfl)), if_pos rfl]
    · rw [if_pos (mem_otherWays.mpr hv), if_neg hv, fencedWay_ne s S w hv]

/-! ### The directory after it -/

theorem State.fenceSet_directory : (s.fenceSet S w).directory = (s.waysSalvaged S w).directory := rfl

theorem State.fenceSet_fence : ((s.fenceSet S w).cacheSet S).fence =
    { (s.cacheSet S).fence with failedWay := some w, lost := (s.line ⟨S, w⟩).state.isUnclean } := by
  rw [cacheSet_of_directory (s.fenceSet_directory S w), (s.waysSalvaged_changesWays S w).fence,
    cacheSet_waitersFenced_self]
  exact (s.waysFenced_changesWays S w).fence.trans (by rw [cacheSet_fenceRecorded_self])

theorem State.fenceSet_isFenced : (s.fenceSet S w).isFenced S = true := by
  rw [State.isFenced, fenceSet_fence]
  rfl

theorem State.fenceSet_line_self : (s.fenceSet S w).line ⟨S, w⟩ = { s.line ⟨S, w⟩ with
    state := .invalid, checkBad := false, pins := 0, cleanWanted := false, accessQueue := [], watchers := [] } := by
  rw [line_of_directory (s.fenceSet_directory S w), (s.waysSalvaged_changesWays S w).line, if_pos rfl, fencedWay_self]

theorem State.fenceSet_line_ne {v : WayId} (h : v ≠ w) : (s.fenceSet S w).line ⟨S, v⟩ = { s.line ⟨S, v⟩ with
    accessQueue := [], cleanWanted := (s.line ⟨S, v⟩).cleanWanted || (s.line ⟨S, v⟩).state.isDirty } := by
  rw [line_of_directory (s.fenceSet_directory S w), (s.waysSalvaged_changesWays S w).line, if_neg h]

theorem State.fenceSet_waitList : ((s.fenceSet S w).cacheSet S).waitList = [] := by
  rw [cacheSet_of_directory (s.fenceSet_directory S w), (s.waysSalvaged_changesWays S w).waitList,
    cacheSet_waitersFenced_self]

theorem State.fenceSet_recency : ((s.fenceSet S w).cacheSet S).recency = (s.cacheSet S).recency := by
  rw [cacheSet_of_directory (s.fenceSet_directory S w), (s.waysSalvaged_changesWays S w).recency,
    cacheSet_waitersFenced_self]
  exact (s.waysFenced_changesWays S w).recency.trans (by rw [cacheSet_fenceRecorded_self])

theorem State.fenceSet_cacheSet_ne {R : SetId} (h : R ≠ S) : (s.fenceSet S w).cacheSet R = s.cacheSet R := by
  rw [cacheSet_of_directory (s.fenceSet_directory S w), (s.waysSalvaged_changesWays S w).other R h,
    cacheSet_waitersFenced_ne s S w h]

/-! ### The Media Port after it -/

theorem State.fenceSet_media : (s.fenceSet S w).media = ((s.fenceRecorded S w).giveUpFailedWay ⟨S, w⟩).media := by
  have hways := (foldl_fenceQueue S (otherWays_nodup w) ((s.fenceRecorded S w).giveUpFailedWay ⟨S, w⟩)).1.2
  have hsalvage := (foldl_salvage S (otherWays_nodup w) (s.waitersFenced S w)).1
  exact (hsalvage.trans (s.sameCore_waitersFenced S w).media).trans hways

theorem State.fenceSet_slot (i : SlotId) : (s.fenceSet S w).slot i = orphaned ⟨S, w⟩ (s.slot i) := by
  rw [State.slot, fenceSet_media]
  exact (s.fenceRecorded S w).giveUpFailedWay_slot ⟨S, w⟩ i

theorem State.fenceSet_fillQueue : (s.fenceSet S w).media.fillQueue = s.media.fillQueue.filter (· != ⟨S, w⟩) := by
  rw [fenceSet_media]
  exact (s.fenceRecorded S w).giveUpFailedWay_fillQueue ⟨S, w⟩

theorem State.fenceSet_link : (s.fenceSet S w).media.link = s.media.link := (Thins.fenceSet s S w).link

/-! ### The Write-Back Unit after it -/

/-- The account of the failed way is given up, and the DIRTY intact ways join the urgent queue. -/
theorem State.fenceSet_writeBack : (s.fenceSet S w).writeBack =
    { ((s.fenceRecorded S w).giveUpUnclean ⟨S, w⟩).writeBack with
      urgent := ((s.fenceRecorded S w).giveUpUnclean ⟨S, w⟩).writeBack.urgent ++
        ((List.finRange 8).filter fun v => v != w && (s.line ⟨S, v⟩).state.isDirty &&
          !(s.line ⟨S, v⟩).cleanWanted).map (LineId.mk S) } := by
  have hways := (foldl_fenceQueue S (otherWays_nodup w) ((s.fenceRecorded S w).giveUpFailedWay ⟨S, w⟩)).1.1
  have hwaiters : (s.waitersFenced S w).writeBack = ((s.fenceRecorded S w).giveUpUnclean ⟨S, w⟩).writeBack :=
    ((s.sameCore_waitersFenced S w).writeBack.trans hways).trans ((s.fenceRecorded S w).giveUpFailedWay_writeBack ⟨S, w⟩)
  have hlines : (otherWays w).filter (fun v => ((s.waitersFenced S w).line ⟨S, v⟩).state.isDirty &&
        !((s.waitersFenced S w).line ⟨S, v⟩).cleanWanted) =
      (List.finRange 8).filter fun v => v != w && (s.line ⟨S, v⟩).state.isDirty && !(s.line ⟨S, v⟩).cleanWanted := by
    rw [otherWays, List.filter_filter]
    refine List.filter_congr fun v _ => ?_
    rw [line_waitersFenced]
    by_cases hv : v = w
    · simp [hv]
    · rw [fencedWay_ne s S w hv, bne_iff_ne.mpr hv, Bool.and_true, Bool.true_and]
  have hsalvage := foldl_salvage_writeBack S (otherWays_nodup w) (s.waitersFenced S w)
  rw [hlines, hwaiters] at hsalvage
  exact hsalvage

/-! ### What completes -/

theorem State.waysFenced_completes : s.Completes .fenced (s.waysFenced S w)
    ((s.line ⟨S, w⟩).watchers.map (·.bop) ++ (s.line ⟨S, w⟩).accessQueue ++
      (otherWays w).flatMap fun v => (s.line ⟨S, v⟩).accessQueue) := by
  have hgiven := (s.fenceRecorded S w).giveUpFailedWay_completes ⟨S, w⟩
  rw [line_fenceRecorded] at hgiven
  have hqueues := foldl_fenceQueue_completes S (otherWays_nodup w) ((s.fenceRecorded S w).giveUpFailedWay ⟨S, w⟩)
  have hlines : (otherWays w).flatMap (fun v => (((s.fenceRecorded S w).giveUpFailedWay ⟨S, w⟩).line ⟨S, v⟩).accessQueue) =
      (otherWays w).flatMap fun v => (s.line ⟨S, v⟩).accessQueue :=
    List.flatMap_congr fun v hv => by rw [giveUpFailedWay_fenceRecorded_line, if_neg (mem_otherWays.mp hv)]
  rw [hlines] at hqueues
  exact (Completes.trans (q := []) (.setCacheSet s S _) hgiven).trans hqueues

/-- All that completes with FENCED, in order. -/
theorem State.waysSalvaged_completes : s.Completes .fenced (s.waysSalvaged S w)
    ((s.line ⟨S, w⟩).watchers.map (·.bop) ++ (s.line ⟨S, w⟩).accessQueue ++
      ((otherWays w).flatMap fun v => (s.line ⟨S, v⟩).accessQueue) ++ (s.cacheSet S).waitList) := by
  have hlist : ((s.waysFenced S w).cacheSet S).waitList = (s.cacheSet S).waitList :=
    (s.waysFenced_changesWays S w).waitList.trans (by rw [cacheSet_fenceRecorded_self])
  have hwaiters : (s.waysFenced S w).Completes .fenced (s.waitersFenced S w) (s.cacheSet S).waitList := by
    rw [← hlist]
    exact Completes.trans (q := []) (.setCacheSet _ S _) (.completeAll _)
  exact ((s.waysFenced_completes S w).trans hwaiters).quiet (.foldl (fun t v => .salvage t ⟨S, v⟩) (otherWays w) _)

end

/-! ### The account of the failed way -/

section
variable (s : State) (S : SetId) (w : WayId)

theorem State.giveUpUnclean_fenceRecorded_of_clean (h : (s.line ⟨S, w⟩).state.epoch = none) :
    ((s.fenceRecorded S w).giveUpUnclean ⟨S, w⟩).writeBack = s.writeBack := by
  rw [giveUpUnclean_of_clean _ _ (by rw [line_fenceRecorded]; exact h)]
  rfl

theorem State.giveUpUnclean_fenceRecorded {e : Epoch} (h : (s.line ⟨S, w⟩).state.epoch = some e) :
    ((s.fenceRecorded S w).giveUpUnclean ⟨S, w⟩).writeBack = { (s.uncleanDown e).writeBack with
      dirtyOrder := s.writeBack.dirtyOrder.filter (· != ⟨S, w⟩), urgent := s.writeBack.urgent.filter (· != ⟨S, w⟩),
      pressure := ((s.fenceRecorded S w).leaveDirty ⟨S, w⟩).writeBack.pressure,
      activeFlushAll := (s.oldEpochFailure e .fenced).writeBack.activeFlushAll } := by
  rw [giveUpUnclean_eq _ _ e (by rw [line_fenceRecorded]; exact h),
    ← oldEpochFailure_record (s := s) (t := s.fenceRecorded S w) rfl]
  cases e <;> rfl

end

theorem LineState.isUnclean_iff {st : LineState} : st.isUnclean = true ↔ ∃ e, st.epoch = some e := by
  cases st <;> simp [LineState.isUnclean, LineState.epoch]

theorem LineState.epoch_of_not_unclean {st : LineState} (h : st.isUnclean = false) : st.epoch = none := by
  cases st with
  | invalid | filling _ _ | clean _ => rfl
  | dirty _ _ | cleaning _ _ | redirty _ _ _ => cases h

section
variable (s : State) (f : FlushAllRecord) (e : Epoch) (st : Status)

theorem State.oldEpochFailure_of_none (h : s.writeBack.activeFlushAll = none) : s.oldEpochFailure e st = s := by
  simp only [State.oldEpochFailure, h]

theorem State.oldEpochFailure_of_other (h : s.writeBack.activeFlushAll = some f) (he : f.oldEpoch ≠ e) :
    s.oldEpochFailure e st = s := by
  simp only [State.oldEpochFailure, h, if_neg he]

theorem State.oldEpochFailure_of_old (h : s.writeBack.activeFlushAll = some f) (he : f.oldEpoch = e) :
    s.oldEpochFailure e st = s.flushAllFailure st := by
  simp only [State.oldEpochFailure, h, if_pos he]

end

theorem orphaned_of_request {l : LineId} {m : MediaSlot} (hl : m.line = l) (horphan : m.orphan = false)
    (hstate : m.state = .drawing ∨ m.state = .awaiting) : orphaned l (some m) = some { m with orphan := true } := by
  rcases hstate with hstate | hstate <;> simp [orphaned, MediaSlot.serves, hl, horphan, hstate]

theorem orphaned_of_waiting {l : LineId} {m : MediaSlot} (hl : m.line = l) (horphan : m.orphan = false)
    (hstate : m.state = .backoff ∨ m.state = .redrawWait) : orphaned l (some m) = none := by
  rcases hstate with hstate | hstate <;> simp [orphaned, MediaSlot.serves, hl, horphan, hstate]

theorem orphaned_of_stranger {l : LineId} {x : Option MediaSlot} (h : ∀ m, x = some m → m.line ≠ l ∨ m.orphan = true) :
    orphaned l x = x := by
  cases x with
  | none => rfl
  | some m =>
    have hserves : m.serves l = false := by
      rw [MediaSlot.serves, Bool.and_eq_false_iff, beq_eq_false_iff_ne, Bool.not_eq_false']
      exact h m rfl
    simp only [orphaned, hserves, Bool.false_eq_true, if_false]

/-- Settles O48: fencing part by part of the state; a lookup by the fence, the check codes and what a miss does for its kind. -/
theorem lookupMissesOrMeetsAFence : Obligations.LookupMissesOrMeetsAFence := by
  unfold Obligations.LookupMissesOrMeetsAFence
  refine ⟨?_, fun s f e st => ⟨s.oldEpochFailure_of_none e st, s.oldEpochFailure_of_other f e st,
    s.oldEpochFailure_of_old f e st⟩, ?_⟩
  · rintro s t S w l rfl rfl
    have hcompletes := s.waysSalvaged_completes S w
    refine ⟨s.fenceSet_fence S w, s.fenceSet_line_self S w, fun v hv => s.fenceSet_line_ne S w hv, s.fenceSet_waitList S w,
      s.fenceSet_recency S w, fun R hR => s.fenceSet_cacheSet_ne S w hR, fun i m hm hl horphan => ⟨fun hstate => ?_, fun hstate => ?_⟩,
      fun i hi => ?_, s.fenceSet_fillQueue S w, s.fenceSet_link S w, fun hclean => ?_, fun e he => ?_, ?_, ?_, ?_, ?_, ?_⟩
    · rw [State.fenceSet_slot, hm, orphaned_of_request hl horphan hstate]
    · rw [State.fenceSet_slot, hm, orphaned_of_waiting hl horphan hstate]
    · rw [State.fenceSet_slot, orphaned_of_stranger hi]
    · have hkept := s.giveUpUnclean_fenceRecorded_of_clean S w (LineState.epoch_of_not_unclean hclean)
      simp only [State.unclean, State.fenceSet_writeBack, hkept, implies_true, and_self]
    · have hgiven := s.giveUpUnclean_fenceRecorded S w he
      have hdown : (s.uncleanDown e).unclean e = s.unclean e - 1 := s.unclean_setUnclean_self e _
      have hother : (s.uncleanDown e).unclean e.other = s.unclean e.other := s.unclean_setUnclean_other e _
      simp only [State.unclean, State.fenceSet_writeBack, hgiven] at hdown hother ⊢
      exact ⟨hdown, hother, trivial, trivial⟩
    · rw [State.fenceSet_writeBack]
      cases hunclean : (s.line ⟨S, w⟩).state.isUnclean with
      | false =>
        rw [s.giveUpUnclean_fenceRecorded_of_clean S w (LineState.epoch_of_not_unclean hunclean)]
        rfl
      | true =>
        obtain ⟨e, he⟩ := LineState.isUnclean_iff.mp hunclean
        rw [s.giveUpUnclean_fenceRecorded S w he]
        rfl
    · rw [State.fenceSet_eq, State.reportFault_faults_congr hcompletes.faults]
    · exact hcompletes.engine
    · exact hcompletes.frames
    · rintro q rfl
      exact ⟨hcompletes.commands, hcompletes.rings, hcompletes.host⟩
  · rintro s c k b _ hawaits rfl
    have hmissed := fun hfence hgood hmiss =>
      State.lookupBop_of_miss (s := s.takenFromLookup b) (b := b) (m := .fresh) hfence hgood hmiss
    refine ⟨fun hfence => exec_lookup_of_unchanged hawaits (State.lookupBop_of_fenced hfence),
      fun w hfence hbad => exec_lookup_of_unchanged hawaits (State.lookupBop_of_bad hfence hbad),
      fun hfence hgood hmiss => ⟨fun hk hlink => ?_, fun hseeks hstalled => ?_, ?_, fun hk => ?_, fun hk => ?_⟩⟩
    · exact exec_lookup_of_unchanged hawaits ((hmissed hfence hgood hmiss).trans (State.lookupMiss_offline hk hlink))
    · have hjoins := State.seekVictim_of_stalled (s := s.takenFromLookup b) (b := b) (m := .fresh)
        (hstalled.imp (fun h => ⟨rfl, h⟩) fun h => ⟨nofun, h⟩)
      exact exec_lookup_of_unchanged hawaits
        ((hmissed hfence hgood hmiss).trans ((State.lookupMiss_seeks (s := s.takenFromLookup b) hseeks).trans hjoins))
    · rintro w _ hempty hvictim rfl
      have htaken := State.seekVictim_of_victim (s := s.takenFromLookup b) (b := b) (m := .fresh) (fun _ => hempty) hvictim
      refine ⟨fun hk hlink => ?_, fun hk => ?_⟩
      · have hfill := State.allocate_fill (s := s.takenFromLookup b) (b := b) (l := ⟨setOf b.block, w⟩) hk
        rw [State.takenFromLookup_line] at hfill
        rw [hfill] at htaken
        exact exec_lookup_of_ended hawaits
          ((hmissed hfence hgood hmiss).trans ((State.lookupMiss_seeks (s := s.takenFromLookup b) (.inl ⟨hk, hlink⟩)).trans htaken))
      · have hwrite := State.allocate_write (s := s.takenFromLookup b) (b := b) (l := ⟨setOf b.block, w⟩) hk
        rw [State.takenFromLookup_line] at hwrite
        rw [hwrite] at htaken
        exact exec_lookup_of_ended hawaits
          ((hmissed hfence hgood hmiss).trans ((State.lookupMiss_seeks (s := s.takenFromLookup b) (.inr hk)).trans htaken))
    · exact exec_lookup_of_unchanged hawaits ((hmissed hfence hgood hmiss).trans (State.lookupMiss_ok hk))
    · exact exec_lookup_of_unchanged hawaits ((hmissed hfence hgood hmiss).trans (State.lookupMiss_unpin hk))

end Sys2Proof.Machine
end

section
/-! PROOFS. Responses (R89 to R92), timers (R93, R94), redraws (R64) and final failures (R46, R65, R66, R95): O56, O57. -/

namespace Sys2Proof.Machine

/-! ### The outcomes of a fill and of a clean -/

section
variable {s u : State} {l : LineId}

theorem State.fillLands_of_filling {d : List Byte} {b : Nat} {src : FillSource} (hfence : s.isFenced l.set = false)
    (hstate : (s.line l).state = .filling b src)
    (hu : u = ((s.setFrame l d).setLineState l (.clean b)).touchWay l) : s.fillLands l d = ((u.serve l).1, true) := by
  subst hu
  have hfence' : (s.setFrame l d).isFenced l.set = false := hfence
  have hstate' : ((s.setFrame l d).line l).state = .filling b src := hstate
  simp only [State.fillLands, hfence', hstate', Bool.false_eq_true, if_false, State.afterChange]

theorem State.fillLands_of_fenced {d : List Byte} (hfence : s.isFenced l.set = true)
    (hu : u = (s.setFrame l d).enterInvalid l) : s.fillLands l d = ((u.serve l).1, true) := by
  subst hu
  exact if_pos hfence

theorem State.isFenced_uncleanDown (e : Epoch) (S : SetId) : (s.uncleanDown e).isFenced S = s.isFenced S :=
  s.isFenced_setUnclean e _ S

theorem State.isFenced_uncleanUp (e : Epoch) (S : SetId) : (s.uncleanUp e).isFenced S = s.isFenced S :=
  s.isFenced_setUnclean e _ S

theorem State.salvageIfFenced_of_unfenced (h : s.isFenced l.set = false) : s.salvageIfFenced l = s :=
  if_neg (by rw [h]; exact Bool.false_ne_true)

theorem State.salvageIfFenced_of_fenced (h : s.isFenced l.set = true) : s.salvageIfFenced l = s.wantClean l := if_pos h

theorem State.isFenced_redirtied (b : Nat) (e f : Epoch) (S : SetId) :
    ((((s.setLineState l (.dirty b f)).uncleanDown e).uncleanUp f).joinDirty l).isFenced S = s.isFenced S := by
  rw [State.isFenced_joinDirty, State.isFenced_uncleanUp, State.isFenced_uncleanDown, State.isFenced_setLineState]

variable {b : Nat} {e f : Epoch}

theorem State.cleanSucceeds_of_cleaning (hfence : s.isFenced l.set = false) (hstate : (s.line l).state = .cleaning b e)
    (hu : u = ((s.setLineState l (.clean b)).uncleanDown e).answerWatchers l .ok) :
    s.cleanSucceeds l = ((u.serve l).1, true) := by
  subst hu
  have hfence' : ((s.setLineState l (.clean b)).uncleanDown e).isFenced l.set = false := by
    rw [State.isFenced_uncleanDown, State.isFenced_setLineState, hfence]
  simp only [State.cleanSucceeds, hstate, hfence', Bool.false_eq_true, if_false, State.afterChange]

theorem State.cleanSucceeds_of_salvaged (hfence : s.isFenced l.set = true) (hstate : (s.line l).state = .cleaning b e)
    (hu : u = (((s.setLineState l (.clean b)).uncleanDown e).setFence l.set { (s.cacheSet l.set).fence with
      salvaged := min ((s.cacheSet l.set).fence.salvaged + 1) 255 }).answerWatchers l .ok) :
    s.cleanSucceeds l = ((u.serve l).1, true) := by
  subst hu
  have hfence' : ((s.setLineState l (.clean b)).uncleanDown e).isFenced l.set = true := by
    rw [State.isFenced_uncleanDown, State.isFenced_setLineState, hfence]
  have hrecord : (((s.setLineState l (.clean b)).uncleanDown e).cacheSet l.set).fence = (s.cacheSet l.set).fence := by
    rw [State.uncleanDown, State.cacheSet_of_directory ((s.setLineState l (.clean b)).setUnclean_frame e _).1]
    exact s.fence_setLine l _ l.set
  simp only [State.cleanSucceeds, hstate, hfence', if_true, hrecord, State.afterChange]

theorem State.cleanSucceeds_of_redirty (hfence : s.isFenced l.set = false) (hstate : (s.line l).state = .redirty b e f)
    (hu : u = ((((s.setLineState l (.dirty b f)).uncleanDown e).uncleanUp f).joinDirty l).answerWatchers l .ok) :
    s.cleanSucceeds l = ((u.serve l).1, true) := by
  subst hu
  have hkept := State.salvageIfFenced_of_unfenced ((State.isFenced_redirtied (l := l) b e f l.set).trans hfence)
  simp only [State.cleanSucceeds, hstate, hkept, State.afterChange]

theorem State.cleanSucceeds_of_redirty_fenced (hfence : s.isFenced l.set = true)
    (hstate : (s.line l).state = .redirty b e f)
    (hu : u = (((((s.setLineState l (.dirty b f)).uncleanDown e).uncleanUp f).joinDirty l).wantClean l).answerWatchers
      l .ok) : s.cleanSucceeds l = ((u.serve l).1, true) := by
  subst hu
  have hplaced := State.salvageIfFenced_of_fenced ((State.isFenced_redirtied (l := l) b e f l.set).trans hfence)
  simp only [State.cleanSucceeds, hstate, hplaced, State.afterChange]

end

theorem State.answerWatchers_eq (s : State) (l : LineId) (st : Status) : s.answerWatchers l st =
    completeAll st (((s.line l).watchers.filter (·.mark == .current)).map (·.bop))
      (s.setWatchers l ((s.line l).watchers.filter (·.mark == .next))) := by
  simp only [State.answerWatchers]

/-! ### Responses -/

theorem MediaSlot.accepts_iff {m : MediaSlot} {attempt block : Nat} :
    m.accepts attempt block = true ↔ m.state = .awaiting ∧ m.attempt = attempt ∧ m.block = block := by
  simp [MediaSlot.accepts, and_assoc]

theorem MediaSlot.attemptsRemain_iff {m : MediaSlot} : m.attemptsRemain = true ↔ m.attempt < m.retryLimit :=
  decide_eq_true_iff

section
variable {s : State} {m : List Byte} {i : SlotId} {attempt block result : Nat} {data : Option (List Byte)}
  (hparse : parseMessage m = .response i attempt block result data)
include hparse

theorem State.takeResponse_of_free (h : s.slot i = none) : s.takeResponse m = s := by
  simp only [State.takeResponse, hparse, h]

variable {x : MediaSlot} (hx : s.slot i = some x)
include hx

theorem State.takeResponse_of_refused (h : x.state ≠ .awaiting ∨ x.attempt ≠ attempt ∨ x.block ≠ block) :
    s.takeResponse m = s := by
  have hrefused : ¬x.accepts attempt block = true := fun haccepts => by
    obtain ⟨hstate, hattempt, hblock⟩ := MediaSlot.accepts_iff.mp haccepts
    exact h.elim (· hstate) (Or.elim · (· hattempt) (· hblock))
  simp only [State.takeResponse, hparse, hx, hrefused, Bool.false_eq_true, if_false]

theorem State.takeResponse_of_accepted (haccepts : x.accepts attempt block = true) {t : State} {changed : Bool}
    (hact : s.actOnResponse i x (judgeResponse x.kind result data) = (t, changed)) :
    s.takeResponse m = t.settleIf changed x.line.set := by
  simp only [State.takeResponse, hparse, hx, haccepts, if_true, hact]

end

section
variable {s : State} {i : SlotId} {x : MediaSlot}

theorem State.actOnResponse_of_orphan (h : x.orphan = true) (r : Judged) :
    s.actOnResponse i x r = (s.setSlot i none, false) := if_pos h

variable (h : x.orphan = false)
include h

theorem State.actOnResponse_doneFill (d : List Byte) :
    s.actOnResponse i x (.doneFill d) = (s.setSlot i none).fillLands x.line d := by
  simp only [State.actOnResponse, h, Bool.false_eq_true, if_false]

theorem State.actOnResponse_doneClean : s.actOnResponse i x .doneClean = (s.setSlot i none).cleanSucceeds x.line := by
  simp only [State.actOnResponse, h, Bool.false_eq_true, if_false]

theorem State.actOnResponse_fault : s.actOnResponse i x .fault = s.failSlot i x .mediaFault := by
  simp only [State.actOnResponse, h, Bool.false_eq_true, if_false]

theorem State.actOnResponse_busy (hremain : x.attempt < x.retryLimit) :
    s.actOnResponse i x .busy = (s.setSlot i (some { x with state := .backoff, timer := some 100 }), false) := by
  simp only [State.actOnResponse, h, Bool.false_eq_true, if_false, MediaSlot.attemptsRemain_iff.mpr hremain, if_true]

theorem State.actOnResponse_busy_spent (hspent : x.retryLimit ≤ x.attempt) :
    s.actOnResponse i x .busy = s.failSlot i x .mediaBusy := by
  have hremain : ¬x.attemptsRemain = true := fun hr => absurd (MediaSlot.attemptsRemain_iff.mp hr) (Nat.not_lt.mpr hspent)
  simp only [State.actOnResponse, h, hremain, Bool.false_eq_true, if_false]

end

theorem judgeResponse_busy (k : SlotKind) : judgeResponse k 2 none = .busy := by
  cases k <;> rfl

theorem judgeResponse_fault {k : SlotKind} {result : Nat} {data : Option (List Byte)}
    (hfill : ¬(k = .fill ∧ data.isSome = true ∧ result = 0)) (hclean : ¬(k = .clean ∧ data = none ∧ result = 0))
    (hbusy : ¬(data = none ∧ result = 2)) : judgeResponse k result data = .fault := by
  cases k with
  | fill =>
    cases data with
    | none => exact if_neg fun h => hbusy ⟨rfl, h⟩
    | some d => exact if_neg fun h => hfill ⟨rfl, rfl, h⟩
  | clean =>
    cases data with
    | none => exact (if_neg fun h => hclean ⟨rfl, rfl, h⟩).trans (if_neg fun h => hbusy ⟨rfl, h⟩)
    | some d => rfl

/-- Settles O56: by the slot of the tag, then by the shape and the result of the response, and by the fence and the line's state. -/
theorem responseIsJudged : Obligations.ResponseIsJudged := by
  unfold Obligations.ResponseIsJudged
  refine ⟨fun s m => rfl, fun s l st => s.answerWatchers_eq l st, fun s m i attempt block result data hparse => ⟨?_, ?_⟩⟩
  · rintro (hfree | ⟨x, hx, hrefused⟩)
    · rw [exec_response, State.takeResponse_of_free hparse hfree]
    · rw [exec_response, State.takeResponse_of_refused hparse hx hrefused]
  · intro x hx hstate hattempt hblock
    have haccepts := MediaSlot.accepts_iff.mpr ⟨hstate, hattempt, hblock⟩
    have hends : ∀ {t : State} {changed : Bool}, s.actOnResponse i x (judgeResponse x.kind result data) = (t, changed) →
        exec (.response m) s = .next (t.settleIf changed x.line.set) := fun hact => by
      rw [exec_response, State.takeResponse_of_accepted hparse hx haccepts hact]
    refine ⟨fun horphan => ?_, fun horphan => ?_⟩
    · rw [← State.settleIf_false _ x.line.set]
      exact hends (State.actOnResponse_of_orphan horphan _)
    have hfill : ∀ d, x.kind = .fill → data = some d → result = 0 →
        s.actOnResponse i x (judgeResponse x.kind result data) = (s.setSlot i none).fillLands x.line d := by
      intro d hk hdata hresult
      rw [hk, hdata, hresult, ← State.actOnResponse_doneFill horphan]
      rfl
    have hclean : x.kind = .clean → data = none → result = 0 →
        s.actOnResponse i x (judgeResponse x.kind result data) = (s.setSlot i none).cleanSucceeds x.line := by
      intro hk hdata hresult
      rw [hk, hdata, hresult, ← State.actOnResponse_doneClean horphan]
      rfl
    refine ⟨fun d b src u hk hdata hresult hfence hline hu => ?_, fun d u hk hdata hresult hfence hu => ?_,
      fun b e u hk hdata hresult hfence hline hu => ?_, fun b e f u hk hdata hresult hfence hline hu => ?_,
      fun b e u hk hdata hresult hfence hline hu => ?_, fun b e f u hk hdata hresult hfence hline hu => ?_,
      fun hdata hresult hremain => ?_, fun hdata hresult hspent => ?_, fun hnfill hnclean hnbusy => ?_⟩
    · exact hends ((hfill d hk hdata hresult).trans (State.fillLands_of_filling (s := s.setSlot i none) hfence hline hu))
    · exact hends ((hfill d hk hdata hresult).trans (State.fillLands_of_fenced (s := s.setSlot i none) hfence hu))
    · exact hends ((hclean hk hdata hresult).trans
        (State.cleanSucceeds_of_cleaning (s := s.setSlot i none) hfence hline hu))
    · exact hends ((hclean hk hdata hresult).trans
        (State.cleanSucceeds_of_redirty (s := s.setSlot i none) hfence hline hu))
    · exact hends ((hclean hk hdata hresult).trans
        (State.cleanSucceeds_of_salvaged (s := s.setSlot i none) hfence hline hu))
    · exact hends ((hclean hk hdata hresult).trans
        (State.cleanSucceeds_of_redirty_fenced (s := s.setSlot i none) hfence hline hu))
    · rw [← State.settleIf_false _ x.line.set]
      refine hends ?_
      rw [hdata, hresult, judgeResponse_busy, State.actOnResponse_busy horphan hremain]
    · refine hends ?_
      rw [hdata, hresult, judgeResponse_busy, State.actOnResponse_busy_spent horphan hspent]
    · refine hends ?_
      rw [judgeResponse_fault hnfill hnclean hnbusy, State.actOnResponse_fault horphan]

end Sys2Proof.Machine
end

section
/-! PROOFS. Timers (R93, R94), redraws (R64) and final failures (R46, R47, R65, R66, R95): O57. -/

namespace Sys2Proof.Machine

/-! ### Timers -/

section
variable {s : State} {i : SlotId} {m : MediaSlot}

theorem State.slotIn_eq {st : SlotState} (h : s.slot i = some m) (hstate : m.state = st) : s.slotIn i st = some m := by
  simp [State.slotIn, h, hstate]

theorem State.slotIn_eq_none {st : SlotState} (h : s.slot i = some m) (hstate : m.state ≠ st) : s.slotIn i st = none := by
  simp [State.slotIn, h, hstate]

theorem exec_responseTimeout (h : s.slotIn i .awaiting = some m) :
    exec (.responseTimeout i) s = .next (s.timeOut i m) := by
  rw [show exec (.responseTimeout i) s = execResponseTimeout i s from rfl, execResponseTimeout, h]

theorem exec_responseTimeout_of_none (h : s.slotIn i .awaiting = none) : exec (.responseTimeout i) s = .next s := by
  rw [show exec (.responseTimeout i) s = execResponseTimeout i s from rfl, execResponseTimeout, h]

theorem exec_busyDelayExpires (h : s.slotIn i .backoff = some m) :
    exec (.busyDelayExpires i) s = .next (s.retryEnds i m) := by
  rw [show exec (.busyDelayExpires i) s = execBusyDelayExpires i s from rfl, execBusyDelayExpires, h]

theorem exec_busyDelayExpires_of_none (h : s.slotIn i .backoff = none) : exec (.busyDelayExpires i) s = .next s := by
  rw [show exec (.busyDelayExpires i) s = execBusyDelayExpires i s from rfl, execBusyDelayExpires, h]

theorem State.timeOut_of_orphan (h : m.orphan = true) : s.timeOut i m = (s.setSlot i none).settle := by
  simp only [State.timeOut, h, if_true, State.settleIf_false]

theorem State.timeOut_of_remaining (h : m.orphan = false) (hremain : m.attempt < m.retryLimit) :
    s.timeOut i m = (s.retry i m).1.settleIf (s.retry i m).2 m.line.set := by
  simp only [State.timeOut, h, Bool.false_eq_true, if_false, MediaSlot.attemptsRemain_iff.mpr hremain, if_true]

theorem State.timeOut_of_spent (h : m.orphan = false) (hspent : m.retryLimit ≤ m.attempt) :
    s.timeOut i m = (s.failSlot i m .mediaTimeout).1.settleIf (s.failSlot i m .mediaTimeout).2 m.line.set := by
  have hremain : ¬m.attemptsRemain = true := fun hr => absurd (MediaSlot.attemptsRemain_iff.mp hr) (Nat.not_lt.mpr hspent)
  simp only [State.timeOut, h, Bool.false_eq_true, if_false, hremain]

end

/-! ### Retries and redraws -/

section
variable {s : State} {i : SlotId} {m : MediaSlot}

theorem State.retry_fill (hk : m.kind = .fill) : s.retry i m = ((s.setSlot i (some { m with
      state := .awaiting, attempt := m.attempt + 1, timeout := s.media.timeout, retryLimit := s.media.retryLimit,
      timer := some (1000 * s.media.timeout) })).mediaSend (.read (requestHeader .fill i (m.attempt + 1) m.block)), false) := by
  simp only [State.retry, hk, State.freshSlot, timerOf]

theorem State.retry_clean_of_written (hk : m.kind = .clean) (h : (s.line m.line).exclusive = true) :
    s.retry i m = (s.setSlot i (some { m with state := .redrawWait, timer := none }), false) := by
  simp only [State.retry, hk, h, if_true]

variable {u : State} (hk : m.kind = .clean) (hfree : (s.line m.line).exclusive = false) (hu : u = s.beginRedraw i m)
include hk hfree hu

theorem State.retry_clean_of_kept (h : ∀ x e f, (s.line m.line).state ≠ .redirty x e f) : s.retry i m = (u, false) := by
  subst hu
  have hstate : ((s.beginRedraw i m).line m.line).state = (s.line m.line).state := by
    rw [State.line_beginRedraw, if_pos rfl]
    exact LineState.redrawn_of_not_redirty h
  simp only [State.retry, hk, hfree, Bool.false_eq_true, if_false, hstate, if_true]

theorem State.retry_clean_of_redirty {x : Nat} {e f : Epoch} (h : (s.line m.line).state = .redirty x e f) :
    s.retry i m = ((u.serve m.line).1, true) := by
  subst hu
  have hstate : ((s.beginRedraw i m).line m.line).state ≠ (s.line m.line).state := by
    rw [State.line_beginRedraw, if_pos rfl]
    exact LineState.redrawn_ne_of_redirty h
  simp only [State.retry, hk, hfree, Bool.false_eq_true, if_false, hstate, State.afterChange]

end

section
variable (s : State) (i : SlotId) (m : MediaSlot)

theorem State.beginRedraw_media : (s.beginRedraw i m).media =
    ((s.setSlot i (some (s.freshSlot .drawing .clean m.block m.line (m.attempt + 1) none m.orphan))).mediaSend
      (.writeHeader (requestHeader .clean i (m.attempt + 1) m.block))).media := by
  unfold State.beginRedraw
  dsimp only
  split <;> rfl

theorem State.beginRedraw_writeBack : (s.beginRedraw i m).writeBack =
    { s.writeBack with urgent := s.writeBack.urgent.filter (· != m.line) } := by
  unfold State.beginRedraw
  dsimp only
  split <;> rfl

theorem State.beginRedraw_slot_self :
    (s.beginRedraw i m).slot i = some (s.freshSlot .drawing .clean m.block m.line (m.attempt + 1) none m.orphan) := by
  rw [State.slot, beginRedraw_media]
  exact s.slot_setSlot_self i _

theorem State.beginRedraw_slot_ne {j : SlotId} (h : j ≠ i) : (s.beginRedraw i m).slot j = s.slot j := by
  rw [State.slot, beginRedraw_media]
  exact s.slot_setSlot_ne i j _ h.symm

end

/-! ### Fills that fail -/

theorem splitAtWrite_append {pre rest : List Bop} (hpre : ∀ b ∈ pre, b.kind ≠ .write)
    (hrest : rest = [] ∨ ∃ b more, rest = b :: more ∧ b.kind = .write) : splitAtWrite (pre ++ rest) = (pre, rest) := by
  induction pre with
  | nil =>
    obtain rfl | ⟨b, more, rfl, hb⟩ := hrest
    · rfl
    · exact if_pos hb
  | cons b pre ih =>
    refine (if_neg (hpre b List.mem_cons_self)).trans ?_
    rw [List.append_eq, ih fun c hc => hpre c (List.mem_cons_of_mem b hc)]

theorem failQueued_cons_discard {b : Bop} (h : b.kind = .discard) (st : Status) (bs : List Bop) (s : State) :
    failQueued st (b :: bs) s = failQueued st bs (s.completeBop b .ok) := by
  rw [failQueued, if_pos h]

theorem failQueued_cons_other {b : Bop} (h : b.kind ≠ .discard) (st : Status) (bs : List Bop) (s : State) :
    failQueued st (b :: bs) s = failQueued st bs (s.completeBop b st) := by
  rw [failQueued, if_neg h]

section
variable {s : State} {l : LineId} {st : Status}

theorem State.failFill_of_fenced (h : s.isFenced l.set = true) :
    s.failFill l st = (((s.enterInvalid l).serve l).1, true) := if_pos h

variable {x : Nat} {src : FillSource} {pre rest : List Bop} (hfence : s.isFenced l.set = false)
  (hstate : (s.line l).state = .filling x src) (hqueue : (s.line l).accessQueue = pre ++ rest)
  (hpre : ∀ b ∈ pre, b.kind ≠ .write)
include hfence hstate hqueue hpre

theorem State.failFill_of_no_write (hrest : rest = []) :
    s.failFill l st = ((failQueued st pre (s.setAccessQueue l [])).enterInvalid l, true) := by
  have hsplit := splitAtWrite_append hpre (.inl hrest)
  simp only [State.failFill, hfence, Bool.false_eq_true, if_false, hstate, hqueue, hsplit]
  subst hrest
  rfl

theorem State.failFill_of_write {b : Bop} {more : List Bop} (hrest : rest = b :: more) (hb : b.kind = .write) :
    s.failFill l st = ((((failQueued st pre (s.setAccessQueue l rest)).setAccessQueue l more).setLineState l
      (.filling x .host)).startWrite l b, true) := by
  have hsplit := splitAtWrite_append hpre (.inr ⟨b, more, hrest, hb⟩)
  simp only [State.failFill, hfence, Bool.false_eq_true, if_false, hstate, hqueue, hsplit]
  subst hrest
  rfl

end

/-! ### Cleans that fail -/

theorem State.failClean_of_fenced {s : State} {l : LineId} (h : s.isFenced l.set = true) (st : Status) :
    s.failClean l st = ((s.dropLine l).serve l).1 := by
  simp only [State.failClean, h, if_true]

theorem State.failClean_of_unfenced {s : State} {l : LineId} (h : s.isFenced l.set = false) (st : Status) :
    s.failClean l st = (((s.returnDirty l st).answerWatchers l st).serve l).1 := by
  simp only [State.failClean, h, Bool.false_eq_true, if_false]

theorem State.returnDirty_of_current {s : State} {l : LineId} {x : Nat} {e : Epoch} (st : Status)
    (h : (s.line l).state = .cleaning x e ∨ ∃ f, (s.line l).state = .redirty x e f) (he : e = s.writeBack.currentEpoch) :
    s.returnDirty l st = (s.setLineState l (.dirty x e)).joinDirty l := by
  rcases h with h | ⟨f, h⟩ <;> simp only [State.returnDirty, h, if_pos he]

theorem State.returnDirty_of_old {s : State} {l : LineId} {x : Nat} {e : Epoch} (st : Status)
    (h : (s.line l).state = .cleaning x e ∨ ∃ f, (s.line l).state = .redirty x e f) (he : e ≠ s.writeBack.currentEpoch) :
    s.returnDirty l st = ((((s.setLineState l (.dirty x s.writeBack.currentEpoch)).uncleanDown e).uncleanUp
      s.writeBack.currentEpoch).flushAllFailure st).joinDirty l := by
  rcases h with h | ⟨f, h⟩ <;> simp only [State.returnDirty, h, if_neg he]

/-! ### Slots that fail -/

/-- What a final failure makes of the state before it acts on the line: the fault, and the slot FREE (R95). -/
def State.slotFailed (s : State) (i : SlotId) (m : MediaSlot) (st : Status) : State :=
  (if st = .offline then s else s.reportFault (.media m.block m.kind st)).setSlot i none

section
variable (s : State) (i : SlotId) (m : MediaSlot) (st : Status)

theorem State.slotFailed_directory : (s.slotFailed i m st).directory = s.directory := by
  unfold State.slotFailed
  split <;> rfl

theorem State.slotFailed_line (l : LineId) : (s.slotFailed i m st).line l = s.line l :=
  line_of_directory (s.slotFailed_directory i m st) l

theorem State.slotFailed_isFenced (S : SetId) : (s.slotFailed i m st).isFenced S = s.isFenced S := by
  rw [State.isFenced, cacheSet_of_directory (s.slotFailed_directory i m st)]
  rfl

variable {m}

theorem State.failSlot_fill (hk : m.kind = .fill) : s.failSlot i m st = (s.slotFailed i m st).failFill m.line st := by
  simp only [State.failSlot, hk, State.slotFailed]

theorem State.failSlot_clean (hk : m.kind = .clean) :
    s.failSlot i m st = ((s.slotFailed i m st).failClean m.line st, true) := by
  simp only [State.failSlot, hk, State.slotFailed]

end

/-! ### Dropped lines -/

/-- The line of a fenced set is INVALID, before the failure is counted (R66, R161). -/
def State.dropped (s : State) (l : LineId) : State := (s.unwatched l).enterInvalid l

section
variable (s : State) (l : LineId)

theorem State.dropLine_eq : s.dropLine l = (s.dropped l).setFence l.set { ((s.dropped l).cacheSet l.set).fence with
    salvageFailures := min (((s.dropped l).cacheSet l.set).fence.salvageFailures + 1) 255 } := rfl

theorem State.dropped_changesLine : s.ChangesLine (s.dropped l) l { s.line l with
    state := .invalid, checkBad := false, pins := 0, cleanWanted := false, watchers := [] } := by
  obtain ⟨c, hunwatched⟩ := s.unwatched_changesLine l
  exact hunwatched.enterInvalid

theorem State.line_setFence (S : SetId) (f : FenceRecord) (x : LineId) : (s.setFence S f).line x = s.line x := by
  unfold State.line
  by_cases h : S = x.set
  · rw [← h, State.setFence, cacheSet_setCacheSet_self]
  · rw [State.setFence, cacheSet_setCacheSet_ne _ _ _ _ h]

theorem State.dropLine_line_self : (s.dropLine l).line l = { s.line l with
    state := .invalid, checkBad := false, pins := 0, cleanWanted := false, watchers := [] } := by
  rw [dropLine_eq, line_setFence, (s.dropped_changesLine l).line]

theorem State.dropLine_line_ne {x : LineId} (h : x ≠ l) : (s.dropLine l).line x = s.line x := by
  rw [dropLine_eq, line_setFence, (s.dropped_changesLine l).line_ne h]

theorem State.dropLine_fence : ((s.dropLine l).cacheSet l.set).fence = { (s.cacheSet l.set).fence with
    salvageFailures := min ((s.cacheSet l.set).fence.salvageFailures + 1) 255 } := by
  rw [dropLine_eq, State.setFence, cacheSet_setCacheSet_self, (s.dropped_changesLine l).ways.fence]

theorem State.dropLine_recency : ((s.dropLine l).cacheSet l.set).recency = (s.cacheSet l.set).recency := by
  rw [dropLine_eq, State.setFence, cacheSet_setCacheSet_self]
  exact (s.dropped_changesLine l).ways.recency

theorem State.dropLine_writeBack : (s.dropLine l).writeBack = (s.giveUpUnclean l).writeBack := s.unwatched_writeBack l

theorem State.dropLine_completes : s.Completes .fenced (s.dropLine l) ((s.line l).watchers.map (·.bop)) :=
  ((s.unwatched_completes l).quiet (.setLine _ l _)).quiet (.setCacheSet _ l.set _)

variable {s l} {e : Epoch} (h : (s.line l).state.epoch = some e)
include h

theorem State.dropLine_unclean_self : (s.dropLine l).unclean e = s.unclean e - 1 := by
  have hdown : (s.uncleanDown e).unclean e = s.unclean e - 1 := s.unclean_setUnclean_self e _
  simp only [State.unclean, dropLine_writeBack, giveUpUnclean_eq s l e h] at hdown ⊢
  exact hdown

theorem State.dropLine_unclean_other : (s.dropLine l).unclean e.other = s.unclean e.other := by
  have hother : (s.uncleanDown e).unclean e.other = s.unclean e.other := s.unclean_setUnclean_other e _
  simp only [State.unclean, dropLine_writeBack, giveUpUnclean_eq s l e h] at hother ⊢
  exact hother

end

/-- Settles O57: the timers by the slot's state; a retry and a failure by the slot's kind, the fence and the line's state. -/
theorem slotTimersExpire : Obligations.SlotTimersExpire := by
  unfold Obligations.SlotTimersExpire
  refine ⟨?_, ?_, fun s st b bs => ⟨rfl, fun hk => failQueued_cons_discard hk st bs s,
    fun hk => failQueued_cons_other hk st bs s⟩, ?_, ?_⟩
  · intro s i m hm
    refine ⟨fun hstate => ⟨fun horphan => ?_, fun horphan hremain => ?_, fun horphan hspent => ?_⟩,
      fun hstate => exec_responseTimeout_of_none (State.slotIn_eq_none hm hstate), fun hstate => ?_,
      fun hstate => exec_busyDelayExpires_of_none (State.slotIn_eq_none hm hstate), State.retry_fill,
      State.retry_clean_of_written, fun u hk hfree hu => ⟨State.retry_clean_of_kept hk hfree hu,
        fun x e f => State.retry_clean_of_redirty hk hfree hu⟩, ?_⟩
    · rw [exec_responseTimeout (State.slotIn_eq hm hstate), State.timeOut_of_orphan horphan]
    · rw [exec_responseTimeout (State.slotIn_eq hm hstate), State.timeOut_of_remaining horphan hremain]
    · rw [exec_responseTimeout (State.slotIn_eq hm hstate), State.timeOut_of_spent horphan hspent]
    · exact exec_busyDelayExpires (State.slotIn_eq hm hstate)
    · rintro st _ v rfl hv
      have hv : v = s.slotFailed i m st := hv
      subst hv
      have hline := s.slotFailed_line i m st m.line
      have hfences := s.slotFailed_isFenced i m st m.line.set
      refine ⟨fun hk hfence => ?_, fun x src pre rest hk hfence hstate hqueue hpre => ⟨fun hrest => ?_,
        fun b more hrest hb => ?_⟩, fun hk hfence => ?_, fun hk hfence => ?_⟩
      · rw [State.failSlot_fill _ _ _ hk, State.failFill_of_fenced (hfences.trans hfence)]
      · rw [State.failSlot_fill _ _ _ hk, State.failFill_of_no_write (hfences.trans hfence) (by rw [hline]; exact hstate)
          (by rw [hline]; exact hqueue) hpre hrest]
      · rw [State.failSlot_fill _ _ _ hk, State.failFill_of_write (hfences.trans hfence) (by rw [hline]; exact hstate)
          (by rw [hline]; exact hqueue) hpre hrest hb]
      · rw [State.failSlot_clean _ _ _ hk, State.failClean_of_unfenced (hfences.trans hfence)]
      · rw [State.failSlot_clean _ _ _ hk, State.failClean_of_fenced (hfences.trans hfence)]
  · rintro s t i m l rfl rfl
    refine ⟨s.beginRedraw_slot_self i m, fun j hj => s.beginRedraw_slot_ne i m hj, ?_, ?_, fun x hx => ?_, ?_, ?_, fun e => ?_⟩
    · rw [State.beginRedraw_media]
      rfl
    · rw [State.line_beginRedraw, if_pos rfl]
      cases hstate : (s.line m.line).state <;> rfl
    · rw [State.line_beginRedraw, if_neg hx]
    · rw [State.beginRedraw_writeBack]
    · rw [State.beginRedraw_writeBack]
    · simp only [State.unclean, State.beginRedraw_writeBack]
  · rintro s l st x e _ rfl h
    exact ⟨State.returnDirty_of_current st h, State.returnDirty_of_old st h⟩
  · rintro s t l e h rfl
    have hcompletes := s.dropLine_completes l
    refine ⟨s.dropLine_line_self l, fun x hx => s.dropLine_line_ne l hx, s.dropLine_fence l, s.dropLine_recency l,
      State.dropLine_unclean_self h, State.dropLine_unclean_other h, ?_, ?_, ?_, hcompletes.commands, hcompletes.rings,
      hcompletes.host⟩
    · rw [State.dropLine_writeBack, State.giveUpUnclean_eq s l e h]
    · rw [State.dropLine_writeBack, State.giveUpUnclean_eq s l e h]
    · rw [State.dropLine_writeBack, State.giveUpUnclean_eq s l e h]

end Sys2Proof.Machine
end

section
/-! PROOFS. ANNOUNCE and link loss (R82, R99, R100): O58. -/

namespace Sys2Proof.Machine

/-! ### What link loss keeps -/

/-- The link and the retag walk are the same in both, the same flush-all is active, a FREE slot stays FREE, and with the link DOWN nothing
joins the fill queue. -/
structure State.Loses (s t : State) : Prop where
  link : t.media.link = s.media.link
  free : ∀ i, s.slot i = none → t.slot i = none
  queue : s.media.link = .down → ∀ l ∈ t.media.fillQueue, l ∈ s.media.fillQueue
  walk : t.writeBack.walk = s.writeBack.walk
  epoch : t.writeBack.activeFlushAll.map FlushAllRecord.oldEpoch = s.writeBack.activeFlushAll.map FlushAllRecord.oldEpoch

namespace State.Loses

variable {s t u : State}

theorem of_thins (h : s.Thins t) : s.Loses t where
  link := h.link
  free i hi := by
    obtain hsame | ⟨m, hm, -⟩ := h.slot i
    · exact hsame.trans hi
    · rw [hi] at hm
      cases hm
  queue := h.queue
  walk := h.walk
  epoch := h.epoch

theorem refl (s : State) : s.Loses s := of_thins (.refl s)

theorem trans (h : s.Loses t) (k : t.Loses u) : s.Loses u where
  link := k.link.trans h.link
  free i hi := k.free i (h.free i hi)
  queue hd l hl := h.queue hd l (k.queue (h.link.trans hd) l hl)
  walk := k.walk.trans h.walk
  epoch := k.epoch.trans h.epoch

theorem freeSlot (s : State) (i : SlotId) : s.Loses (s.setSlot i none) where
  link := rfl
  free j hj := by
    by_cases h : i = j
    · rw [← h, slot_setSlot_self]
    · rw [slot_setSlot_ne s i j none h, hj]
  queue _ _ hl := hl
  walk := rfl
  epoch := rfl

theorem slotFailed (s : State) (i : SlotId) (m : MediaSlot) (st : Status) : s.Loses (s.slotFailed i m st) := by
  unfold State.slotFailed
  split
  · exact freeSlot s i
  · exact (of_thins (.reportFault s _)).trans (freeSlot _ i)

theorem failSlot (s : State) (i : SlotId) (m : MediaSlot) (st : Status) : s.Loses (s.failSlot i m st).1 := by
  refine (slotFailed s i m st).trans ?_
  cases hk : m.kind with
  | fill =>
    rw [State.failSlot_fill _ _ _ hk]
    exact of_thins (.failFill _ _ _)
  | clean =>
    rw [State.failSlot_clean _ _ _ hk]
    exact of_thins (.failClean _ _ _)

theorem abandonDraw (s : State) (m : MediaSlot) : s.Loses (s.abandonDraw m).1 := by
  unfold State.abandonDraw
  split
  · exact of_thins (.releaseRead s _)
  · exact refl s

theorem loseSlot (s : State) (i : SlotId) (k : SlotLosses) : s.Loses (s.loseSlot i k).1 := by
  unfold State.loseSlot
  dsimp only
  split
  · exact refl s
  · split
    · exact (abandonDraw s _).trans (freeSlot _ i)
    · exact (abandonDraw s _).trans (failSlot _ i _ _)

theorem loseSlots (is : List SlotId) (r : State × SlotLosses) : r.1.Loses (loseSlots is r).1 := by
  induction is generalizing r with
  | nil => exact refl _
  | cons i is ih => exact (loseSlot r.1 i r.2).trans (ih _)

theorem loseFills (ls : List LineId) (r : State × List SetId) : r.1.Loses (loseFills ls r).1 := by
  induction ls generalizing r with
  | nil => exact refl _
  | cons l ls ih =>
    unfold Machine.loseFills
    split
    · exact ((of_thins (.filterQueue r.1 (· != l))).trans (of_thins (.failFill _ l .offline))).trans (ih (_, _))
    · exact ih r

end State.Loses

/-! ### Slots and fills -/

theorem State.slotFailed_slot (s : State) (i : SlotId) (m : MediaSlot) (st : Status) : (s.slotFailed i m st).slot i = none := by
  unfold State.slotFailed
  exact slot_setSlot_self _ i none

theorem State.failSlot_slot (s : State) (i : SlotId) (m : MediaSlot) (st : Status) : (s.failSlot i m st).1.slot i = none := by
  cases hk : m.kind with
  | fill =>
    rw [failSlot_fill _ _ _ hk]
    exact (Loses.of_thins (.failFill _ _ _)).free i (s.slotFailed_slot i m st)
  | clean =>
    rw [failSlot_clean _ _ _ hk]
    exact (Loses.of_thins (.failClean _ _ _)).free i (s.slotFailed_slot i m st)

theorem State.loseSlot_of_free {s : State} {i : SlotId} (h : s.slot i = none) (k : SlotLosses) : s.loseSlot i k = (s, k) := by
  simp only [State.loseSlot, h]

section
variable {s : State} {i : SlotId} {m : MediaSlot} (hm : s.slot i = some m) (k : SlotLosses)
include hm

theorem State.loseSlot_of_orphan (h : m.orphan = true) : s.loseSlot i k =
    ((s.abandonDraw m).1.setSlot i none,
      { k with changed := noteChange (s.abandonDraw m).2 m.line.set k.changed }) := by
  simp only [State.loseSlot, hm, h, if_true]

theorem State.loseSlot_of_served (h : m.orphan = false) : s.loseSlot i k =
    (((s.abandonDraw m).1.failSlot i m .offline).1,
      { failed := k.failed + 1,
        changed := noteChange ((s.abandonDraw m).2 || ((s.abandonDraw m).1.failSlot i m .offline).2) m.line.set
          k.changed }) := by
  simp only [State.loseSlot, hm, h, Bool.false_eq_true, if_false]

end

theorem State.loseSlot_slot (s : State) (i : SlotId) (k : SlotLosses) : (s.loseSlot i k).1.slot i = none := by
  cases hm : s.slot i with
  | none => rw [loseSlot_of_free hm, hm]
  | some m =>
    cases horphan : m.orphan with
    | true =>
      rw [loseSlot_of_orphan hm k horphan]
      exact slot_setSlot_self _ i none
    | false =>
      rw [loseSlot_of_served hm k horphan]
      exact failSlot_slot _ i m .offline

theorem loseSlots_slot {is : List SlotId} {i : SlotId} (hi : i ∈ is) (r : State × SlotLosses) :
    (loseSlots is r).1.slot i = none := by
  induction is generalizing r with
  | nil => cases hi
  | cons j is ih =>
    obtain rfl | hi := List.mem_cons.mp hi
    · exact (State.Loses.loseSlots is _).free i (r.1.loseSlot_slot i r.2)
    · exact ih hi _

section
variable {s : State} {l : LineId} (ls : List LineId) (sets : List SetId)

theorem loseFills_of_absent (h : l ∉ s.media.fillQueue) : loseFills (l :: ls) (s, sets) = loseFills ls (s, sets) :=
  if_neg h

theorem loseFills_of_queued {u : State}
    (hu : u = { s with media := { s.media with fillQueue := s.media.fillQueue.filter (· != l) } })
    (h : l ∈ s.media.fillQueue) : loseFills (l :: ls) (s, sets) = loseFills ls
      ((u.failFill l .offline).1, noteChange (u.failFill l .offline).2 l.set sets) := by
  subst hu
  exact if_pos h

end

/-- With the link DOWN nothing is left of a fill queue that the list covers. -/
theorem loseFills_fillQueue {ls : List LineId} {r : State × List SetId} (hdown : r.1.media.link = .down)
    (hcovers : ∀ x ∈ r.1.media.fillQueue, x ∈ ls) : (loseFills ls r).1.media.fillQueue = [] := by
  induction ls generalizing r with
  | nil => exact List.eq_nil_iff_forall_not_mem.mpr fun x hx => List.not_mem_nil (hcovers x hx)
  | cons l ls ih =>
    obtain ⟨s, sets⟩ := r
    by_cases hl : l ∈ s.media.fillQueue
    · rw [loseFills_of_queued ls sets rfl hl]
      have hthins := (State.Thins.filterQueue s (· != l)).trans (.failFill _ l .offline)
      refine ih (hthins.link.trans hdown) fun x hx => ?_
      have hleft := (State.Thins.failFill
        { s with media := { s.media with fillQueue := s.media.fillQueue.filter (· != l) } } l .offline).queue hdown x hx
      obtain ⟨hx, hne⟩ := List.mem_filter.mp hleft
      exact (List.mem_cons.mp (hcovers x hx)).resolve_left (bne_iff_ne.mp hne)
    · rw [loseFills_of_absent ls sets hl]
      refine ih hdown fun x hx => (List.mem_cons.mp (hcovers x hx)).resolve_left ?_
      rintro rfl
      exact hl hx

/-! ### The active flush-all -/

theorem State.endFlushAll_writeBack (s : State) (st : Status) :
    (s.endFlushAll st).writeBack = { s.writeBack with activeFlushAll := none } := by
  unfold State.endFlushAll
  dsimp only
  split
  · exact (SameCore.finish _ _ _ _).writeBack
  · rfl

theorem State.loseFlushAll_of_none {s : State} (h : s.writeBack.activeFlushAll = none) : s.loseFlushAll = s := by
  simp only [State.loseFlushAll, h]

theorem State.loseFlushAll_of_some {s : State} {f : FlushAllRecord} (h : s.writeBack.activeFlushAll = some f) :
    s.loseFlushAll = s.cutFlushAll (f.status.worse .offline) := by
  simp only [State.loseFlushAll, h]

theorem State.cutFlushAll_writeBack {s : State} {f : FlushAllRecord} (h : s.writeBack.activeFlushAll = some f) (st : Status) :
    (s.cutFlushAll st).writeBack =
      { s.writeBack with activeFlushAll := none, walk := some { nextSet := 0, epoch := f.oldEpoch } } := by
  simp only [State.cutFlushAll, h, endFlushAll_writeBack]

theorem State.loseFlushAll_media (s : State) : s.loseFlushAll.media = s.media := by
  unfold State.loseFlushAll
  split
  · exact s.cutFlushAll_media _
  · rfl

theorem State.loseFlushAll_activeFlushAll (s : State) : s.loseFlushAll.writeBack.activeFlushAll = none := by
  cases h : s.writeBack.activeFlushAll with
  | none => rw [loseFlushAll_of_none h, h]
  | some f => rw [loseFlushAll_of_some h, cutFlushAll_writeBack h]

/-! ### The steps of link loss -/

section
variable (s : State) (r : LinkLossReason)

/-- R99 step 1. -/
def State.lowered : State := { s with media := { s.media with link := .down } }

/-- R99 step 2, and the passes of its sets. -/
@[irreducible] def State.slotsLost : State × SlotLosses := loseSlots (List.finRange 32) (s.lowered, { failed := 0, changed := [] })

@[irreducible] def State.slotsPassed : State := passAll s.slotsLost.2.changed s.slotsLost.1

/-- R99 step 3, and the passes of its sets. -/
@[irreducible] def State.fillsLost : State × List SetId := loseFills s.slotsPassed.media.fillQueue (s.slotsPassed, [])

@[irreducible] def State.fillsPassed : State := passAll s.fillsLost.2 s.fillsLost.1

/-- R99 steps 4 to 6. -/
theorem State.loseLink_eq : s.loseLink r =
    (s.fillsPassed.loseFlushAll.directory.sets.foldl (fun s e => s.dropDirty (Fin.ofNat 4096 e.1))
      s.fillsPassed.loseFlushAll).reportFault (.link r s.slotsLost.2.failed) := by
  unfold State.loseLink State.fillsPassed State.fillsLost State.slotsPassed State.slotsLost State.lowered
  with_reducible rfl

theorem State.slotsLost_lowered : s.lowered.slotsLost = s.slotsLost := by
  unfold State.slotsLost
  rw [show s.lowered.lowered = s.lowered from rfl]

/-- A loss begins by taking the link DOWN, so it does the same where it is DOWN already. -/
theorem State.loseLink_lowered : s.lowered.loseLink r = s.loseLink r := by
  rw [loseLink_eq, loseLink_eq]
  unfold State.fillsPassed State.fillsLost State.slotsPassed
  rw [slotsLost_lowered]

theorem State.slotsLost_loses : s.lowered.Loses s.slotsLost.1 := by
  unfold State.slotsLost
  exact Loses.loseSlots _ (s.lowered, { failed := 0, changed := [] })

theorem State.slotsPassed_loses : s.lowered.Loses s.slotsPassed := by
  unfold State.slotsPassed
  exact s.slotsLost_loses.trans (.of_thins (.passAll _ _))

theorem State.slotsPassed_link : s.slotsPassed.media.link = .down := s.slotsPassed_loses.link

theorem State.fillsLost_loses : s.slotsPassed.Loses s.fillsLost.1 := by
  unfold State.fillsLost
  exact Loses.loseFills _ (s.slotsPassed, [])

theorem State.fillsPassed_loses : s.lowered.Loses s.fillsPassed := by
  unfold State.fillsPassed
  exact (s.slotsPassed_loses.trans s.fillsLost_loses).trans (.of_thins (.passAll _ _))

theorem State.slotsPassed_slot (i : SlotId) : s.slotsPassed.slot i = none := by
  unfold State.slotsPassed State.slotsLost
  exact (Loses.of_thins (.passAll _ _)).free i (loseSlots_slot (List.mem_finRange i) _)

theorem State.fillsPassed_slot (i : SlotId) : s.fillsPassed.slot i = none := by
  unfold State.fillsPassed
  exact (s.fillsLost_loses.trans (.of_thins (.passAll _ _))).free i (s.slotsPassed_slot i)

theorem State.fillsPassed_fillQueue : s.fillsPassed.media.fillQueue = [] := by
  have hempty : s.fillsLost.1.media.fillQueue = [] := by
    unfold State.fillsLost
    exact loseFills_fillQueue (r := (s.slotsPassed, [])) s.slotsPassed_link fun _ hx => hx
  have hdown : s.fillsLost.1.media.link = .down := s.fillsLost_loses.link.trans s.slotsPassed_link
  refine List.eq_nil_iff_forall_not_mem.mpr fun x hx => ?_
  rw [State.fillsPassed] at hx
  have hx' := (Thins.passAll s.fillsLost.2 s.fillsLost.1).queue hdown x hx
  rw [hempty] at hx'
  exact List.not_mem_nil hx'

/-- The last steps, after the flush-all. -/
theorem State.loseLink_thins : s.fillsPassed.loseFlushAll.Thins (s.loseLink r) := by
  rw [loseLink_eq]
  exact (Thins.foldl _ _ (fun t e => .dropDirty t _) _).trans (.reportFault _ _)

theorem State.loseLink_slot (i : SlotId) : (s.loseLink r).slot i = none := by
  refine (Loses.of_thins (s.loseLink_thins r)).free i ?_
  rw [State.slot, loseFlushAll_media]
  exact s.fillsPassed_slot i

theorem State.fillsPassed_link : s.fillsPassed.media.link = .down := s.fillsPassed_loses.link

theorem State.loseLink_fillQueue : (s.loseLink r).media.fillQueue = [] := by
  refine List.eq_nil_iff_forall_not_mem.mpr fun x hx => ?_
  have hx' := (s.loseLink_thins r).queue (by rw [loseFlushAll_media, fillsPassed_link]) x hx
  rw [loseFlushAll_media, fillsPassed_fillQueue] at hx'
  exact List.not_mem_nil hx'

theorem State.loseLink_activeFlushAll : (s.loseLink r).writeBack.activeFlushAll = none := by
  have h := (s.loseLink_thins r).epoch
  rw [loseFlushAll_activeFlushAll, Option.map_none, Option.map_eq_none_iff] at h
  exact h

theorem State.loseLink_walk_of_none (h : s.writeBack.activeFlushAll = none) :
    (s.loseLink r).writeBack.walk = s.writeBack.walk := by
  have hnone : s.fillsPassed.writeBack.activeFlushAll = none := by
    have hepoch := s.fillsPassed_loses.epoch
    rw [show s.lowered.writeBack.activeFlushAll = none from h, Option.map_none, Option.map_eq_none_iff] at hepoch
    exact hepoch
  rw [(s.loseLink_thins r).walk, loseFlushAll_of_none hnone]
  exact s.fillsPassed_loses.walk

theorem State.loseLink_walk_of_some {f : FlushAllRecord} (h : s.writeBack.activeFlushAll = some f) :
    (s.loseLink r).writeBack.walk = some { nextSet := 0, epoch := f.oldEpoch } := by
  obtain ⟨g, hg, hepoch⟩ : ∃ g, s.fillsPassed.writeBack.activeFlushAll = some g ∧ g.oldEpoch = f.oldEpoch := by
    have hepoch := s.fillsPassed_loses.epoch
    rw [show s.lowered.writeBack.activeFlushAll = some f from h, Option.map_some, Option.map_eq_some_iff] at hepoch
    exact hepoch
  rw [(s.loseLink_thins r).walk, loseFlushAll_of_some hg, cutFlushAll_writeBack hg, hepoch]

/-- The link is taken DOWN, and nothing changes the link or the capacity from there. -/
theorem State.loseLink_link : (s.loseLink r).media.link = .down ∧ (s.loseLink r).media.capacity = s.media.capacity := by
  rw [← loseLink_lowered]
  exact (blind_link .down s.media.capacity).stable.loseLink (s := s.lowered) (fun _ h => ⟨rfl, h.2⟩) r ⟨rfl, rfl⟩

end

/-! ### ANNOUNCE -/

theorem capacityValid_iff {c : Nat} : capacityValid c = true ↔ 1 ≤ c ∧ c ≤ 2 ^ 36 := by
  simp [capacityValid, Config.maxCapacity]

theorem State.linkUp_of_valid {c : Nat} (h : 1 ≤ c ∧ c ≤ 2 ^ 36) (s : State) :
    s.linkUp c = { s with media := { s.media with link := .up, capacity := c } } :=
  if_pos (capacityValid_iff.mpr h)

theorem State.linkUp_of_invalid {c : Nat} (h : ¬(1 ≤ c ∧ c ≤ 2 ^ 36)) (s : State) : s.linkUp c = s :=
  if_neg (mt capacityValid_iff.mp h)

section
variable {s : State} {m : List Byte} {c : Nat} (hparse : parseMessage m = .announce c)
include hparse

theorem State.takeAnnounce_of_down (h : s.media.link = .down) :
    s.takeAnnounce m = if capacityValid c then (s.linkUp c).settle else s := by
  simp only [State.takeAnnounce, hparse, h]

theorem State.takeAnnounce_of_up (h : s.media.link = .up) :
    s.takeAnnounce m = ((s.loseLink .reAnnounce).linkUp c).settle := by
  simp only [State.takeAnnounce, hparse, h]

end

/-! ### Sets that a step has changed -/

section
variable (S : SetId) (sets : List SetId)

theorem noteChange_false : noteChange false S sets = sets := rfl

theorem noteChange_of_mem {S : SetId} {sets : List SetId} (h : S ∈ sets) : noteChange true S sets = sets := by
  have hcontains : sets.contains S = true := List.contains_iff_mem.mpr h
  simp only [noteChange, hcontains, Bool.not_true, Bool.and_false, Bool.false_eq_true, if_false]

theorem noteChange_of_not_mem {S : SetId} {sets : List SetId} (h : S ∉ sets) : noteChange true S sets = sets ++ [S] := by
  have hcontains : sets.contains S = false := by
    rw [Bool.eq_false_iff]
    exact mt List.contains_iff_mem.mp h
  simp only [noteChange, hcontains, Bool.not_false, Bool.and_true, if_true]

end

theorem State.abandonDraw_of_drawing {s : State} {m : MediaSlot} (h : m.kind = .clean ∧ m.state = .drawing) :
    s.abandonDraw m = s.releaseRead m.line := if_pos h

theorem State.abandonDraw_of_other {s : State} {m : MediaSlot} (h : ¬(m.kind = .clean ∧ m.state = .drawing)) :
    s.abandonDraw m = (s, false) := if_neg h

/-- Settles O58: an ANNOUNCE by the link and the capacity; a loss in its steps, and each step by its cases. -/
theorem announceAndLinkLoss : Obligations.AnnounceAndLinkLoss := by
  unfold Obligations.AnnounceAndLinkLoss
  refine ⟨?_, fun s => exec_linkLoss_of_up, fun s => exec_linkLoss_of_down, fun s r => s.loseLink_link r, ?_,
    fun s i is k sets S => ⟨rfl, rfl, rfl, noteChange_of_mem, noteChange_of_not_mem⟩,
    fun s i k h => State.loseSlot_of_free h k, ?_, fun s u l ls sets hu => ⟨rfl, loseFills_of_absent ls sets,
      loseFills_of_queued ls sets hu⟩, ?_, ?_⟩
  · intro s m c hparse
    refine ⟨fun hdown hlow hhigh => ?_, fun hdown hinvalid => ?_, fun hup hlow hhigh => ?_, fun hup hinvalid => ?_⟩
    · rw [exec_announce, State.takeAnnounce_of_down hparse hdown, if_pos (capacityValid_iff.mpr ⟨hlow, hhigh⟩),
        State.linkUp_of_valid ⟨hlow, hhigh⟩]
    · rw [exec_announce, State.takeAnnounce_of_down hparse hdown, if_neg (mt capacityValid_iff.mp hinvalid)]
    · rw [exec_announce, State.takeAnnounce_of_up hparse hup, State.linkUp_of_valid ⟨hlow, hhigh⟩]
    · rw [exec_announce, State.takeAnnounce_of_up hparse hup, State.linkUp_of_invalid hinvalid]
  · rintro s t r rfl
    refine ⟨s.loseLink_slot r, s.loseLink_fillQueue r, s.loseLink_activeFlushAll r, fun f => s.loseLink_walk_of_some r,
      s.loseLink_walk_of_none r, ?_⟩
    intro a b c d e g ha hb hc hd he hg
    have hlowered : a = (s.lowered, { failed := 0, changed := [] }) := ha
    have hslots : b = s.slotsLost := by
      unfold State.slotsLost
      rwa [hlowered] at hb
    have hpassed : c = (s.slotsPassed, []) := by rw [hc, hslots, State.slotsPassed]
    have hfills : d = s.fillsLost := by rw [hd, hpassed, State.fillsLost]
    have hend : e = s.fillsPassed := by rw [he, hfills, State.fillsPassed]
    have hcut : g = s.fillsPassed.loseFlushAll := by
      rw [hg, hend]
      cases h : s.fillsPassed.writeBack.activeFlushAll with
      | none => rw [State.loseFlushAll_of_none h]
      | some f => rw [State.loseFlushAll_of_some h, Status.worse, FlushAllRecord.status]
    rw [hcut, hslots]
    exact s.loseLink_eq r
  · rintro s i k m _ r f hm rfl hdraw hother
    have habandon : s.abandonDraw m = r := by
      by_cases h : m.kind = .clean ∧ m.state = .drawing
      · rw [State.abandonDraw_of_drawing h, hdraw h]
      · rw [State.abandonDraw_of_other h, hother h]
    refine ⟨fun horphan => ?_, fun horphan hfill hclean => ?_⟩
    · rw [State.loseSlot_of_orphan hm k horphan, habandon]
    · have hfails : r.1.failSlot i m .offline = f := by
        cases hk : m.kind with
        | fill => exact (State.failSlot_fill _ _ _ hk).trans (hfill hk).symm
        | clean => exact (State.failSlot_clean _ _ _ hk).trans (hclean hk).symm
      rw [State.loseSlot_of_served hm k horphan, habandon, hfails]
  · intro s l st
    exact ⟨fun hfence => ⟨State.failFill_of_fenced hfence, State.failClean_of_fenced hfence st⟩,
      fun hfence => ⟨State.failClean_of_unfenced hfence st, fun x src pre rest hstate hqueue hpre =>
        ⟨State.failFill_of_no_write hfence hstate hqueue hpre,
          fun b more => State.failFill_of_write hfence hstate hqueue hpre⟩⟩⟩
  · intro s S
    exact ⟨fun hfence => if_neg (by rw [hfence]; exact Bool.false_ne_true), fun hfence => if_pos hfence⟩

end Sys2Proof.Machine
end

section
/-! PROOFS. The visits of the retag walk (R79, R80): O59. -/

namespace Sys2Proof.Machine

/-! ### Activations -/

theorem State.endFlushAll_directory (s : State) (st : Status) : (s.endFlushAll st).directory = s.directory := by
  unfold State.endFlushAll
  dsimp only
  split
  · exact (SameCore.finish _ _ _ _).directory
  · rfl

theorem State.endFlushAll_unclean (s : State) (st : Status) (e : Epoch) : (s.endFlushAll st).unclean e = s.unclean e := by
  simp only [State.unclean, endFlushAll_writeBack]

/-- Activations of waiting flush-alls leave the directory, the unclean counts and the walk as they are. -/
theorem activateLoop_keeps (n : Nat) (s : State) : (activateLoop n s).directory = s.directory ∧
    (activateLoop n s).writeBack.walk = s.writeBack.walk ∧ ∀ e, (activateLoop n s).unclean e = s.unclean e := by
  induction n generalizing s with
  | zero => exact ⟨rfl, rfl, fun _ => rfl⟩
  | succ n ih =>
    unfold activateLoop
    dsimp only
    split
    · exact ⟨rfl, rfl, fun _ => rfl⟩
    · split
      · obtain ⟨hdirectory, hwalk, hunclean⟩ := ih (s.activated.endFlushAll .ok)
        refine ⟨hdirectory.trans (s.activated.endFlushAll_directory .ok),
          hwalk.trans (by rw [State.endFlushAll_writeBack]; rfl), fun e => (hunclean e).trans ?_⟩
        rw [State.endFlushAll_unclean, State.activated_unclean]
      · exact ⟨rfl, rfl, fun e => by cases e <;> rfl⟩

/-! ### Retagging -/

theorem State.unclean_setUnclean_ne (s : State) {e f : Epoch} (h : f ≠ e) (n : Nat) :
    (s.setUnclean e n).unclean f = s.unclean f := by
  cases e <;> cases f
  · exact absurd rfl h
  · rfl
  · rfl
  · exact absurd rfl h

section
variable (s : State) (old : Epoch) (l : LineId)

theorem State.retagLine_of_old (h : (s.line l).state.epoch = some old) : s.retagLine old l =
    ((s.setLineState l ((s.line l).state.retag old s.writeBack.currentEpoch)).uncleanDown old).uncleanUp
      s.writeBack.currentEpoch := if_pos h

theorem State.retagLine_of_other (h : (s.line l).state.epoch ≠ some old) : s.retagLine old l =
    s.setLineState l ((s.line l).state.retag old s.writeBack.currentEpoch) := if_neg h

theorem State.retagLine_directory : (s.retagLine old l).directory =
    (s.setLineState l ((s.line l).state.retag old s.writeBack.currentEpoch)).directory := by
  by_cases h : (s.line l).state.epoch = some old
  · rw [retagLine_of_old s old l h, State.uncleanUp, (setUnclean_frame _ _ _).1, State.uncleanDown,
      (setUnclean_frame _ _ _).1]
  · rw [retagLine_of_other s old l h]

theorem State.retagLine_changesLine : s.ChangesLine (s.retagLine old l) l
    { s.line l with state := (s.line l).state.retag old s.writeBack.currentEpoch } :=
  (ChangesLine.of_setLine s l _).same (s.retagLine_directory old l)

theorem State.currentEpoch_setUnclean (e : Epoch) (n : Nat) :
    (s.setUnclean e n).writeBack.currentEpoch = s.writeBack.currentEpoch := by
  rw [s.setUnclean_eq e n]

theorem State.retagLine_currentEpoch : (s.retagLine old l).writeBack.currentEpoch = s.writeBack.currentEpoch := by
  by_cases h : (s.line l).state.epoch = some old
  · rw [retagLine_of_old s old l h, State.uncleanUp, currentEpoch_setUnclean, State.uncleanDown, currentEpoch_setUnclean]
    rfl
  · rw [retagLine_of_other s old l h]
    rfl

/-- One line's count moves from the old epoch to the current one if the line is of the old epoch. -/
theorem State.retagLine_unclean (hne : old ≠ s.writeBack.currentEpoch) :
    (s.retagLine old l).unclean old =
        s.unclean old - (if (s.line l).state.epoch == some old then 1 else 0) ∧
      (s.retagLine old l).unclean s.writeBack.currentEpoch =
        s.unclean s.writeBack.currentEpoch + (if (s.line l).state.epoch == some old then 1 else 0) := by
  by_cases h : (s.line l).state.epoch = some old
  · rw [retagLine_of_old s old l h, h, beq_self_eq_true, if_pos rfl, State.uncleanUp, unclean_setUnclean_ne _ hne,
      State.uncleanDown, unclean_setUnclean_self, unclean_setUnclean_self, unclean_setUnclean_ne _ hne.symm,
      unclean_setLineState, unclean_setLineState]
    exact ⟨rfl, rfl⟩
  · rw [retagLine_of_other s old l h, beq_false_of_ne h, unclean_setLineState, unclean_setLineState]
    exact ⟨rfl, rfl⟩

end

/-! ### The ways of a visited set -/

section
variable (old : Epoch) (S : SetId) {vs : List WayId} (hvs : vs.Nodup) (s : State)
include hvs

theorem State.foldl_retagLine :
    (vs.foldl (fun s v => s.retagLine old ⟨S, v⟩) s).writeBack.currentEpoch = s.writeBack.currentEpoch ∧
    s.ChangesWays (vs.foldl (fun s v => s.retagLine old ⟨S, v⟩) s) S fun v =>
      if v ∈ vs then
        { s.line ⟨S, v⟩ with state := (s.line ⟨S, v⟩).state.retag old s.writeBack.currentEpoch }
      else s.line ⟨S, v⟩ :=
  ChangesWays.foldl (P := fun t => t.writeBack.currentEpoch = s.writeBack.currentEpoch)
    (g := fun ln => { ln with state := ln.state.retag old s.writeBack.currentEpoch })
    (fun t v ht => ⟨(t.retagLine_currentEpoch old _).trans ht, ht ▸ t.retagLine_changesLine old ⟨S, v⟩⟩) hvs rfl

theorem State.foldl_retagLine_unclean (hne : old ≠ s.writeBack.currentEpoch) :
    (vs.foldl (fun s v => s.retagLine old ⟨S, v⟩) s).unclean old =
        s.unclean old - vs.countP (fun v => (s.line ⟨S, v⟩).state.epoch == some old) ∧
      (vs.foldl (fun s v => s.retagLine old ⟨S, v⟩) s).unclean s.writeBack.currentEpoch =
        s.unclean s.writeBack.currentEpoch + vs.countP (fun v => (s.line ⟨S, v⟩).state.epoch == some old) := by
  induction vs generalizing s with
  | nil => exact ⟨rfl, rfl⟩
  | cons v vs ih =>
    obtain ⟨hv, hvs⟩ := List.nodup_cons.mp hvs
    have hnow := s.retagLine_currentEpoch old ⟨S, v⟩
    obtain ⟨hold, hcurrent⟩ := ih hvs (s.retagLine old ⟨S, v⟩) (hnow ▸ hne)
    obtain ⟨hdown, hup⟩ := s.retagLine_unclean old ⟨S, v⟩ hne
    have hlines : vs.countP (fun u => ((s.retagLine old ⟨S, v⟩).line ⟨S, u⟩).state.epoch == some old) =
        vs.countP fun u => (s.line ⟨S, u⟩).state.epoch == some old :=
      List.countP_congr fun u hu => by
        rw [(s.retagLine_changesLine old ⟨S, v⟩).line_ne fun e => hv ((LineId.mk.inj e).2 ▸ hu)]
    rw [hnow] at hcurrent
    rw [List.foldl_cons, List.countP_cons, hold, hcurrent, hlines, hdown, hup]
    exact ⟨by omega, by omega⟩

end

/-! ### A visit -/

/-- The lines of the visited set are retagged (R79 items 2 and 3). -/
@[irreducible] def State.setRetagged (s : State) (w : RetagWalk) : State :=
  (List.finRange 8).foldl (fun s v => s.retagLine w.epoch ⟨w.nextSet, v⟩) s

section
variable {s u : State} {w : RetagWalk}

theorem State.checkSet_of_sound (h : s.isFenced w.nextSet = true ∨ (s.cacheSet w.nextSet).badWay = none) :
    s.checkSet w.nextSet = s := by
  unfold State.checkSet
  split
  · rfl
  · next hfence => simp only [h.resolve_left hfence]

theorem State.checkSet_of_bad {S : SetId} {v : WayId} (hfence : s.isFenced S = false) (hbad : (s.cacheSet S).badWay = some v) :
    s.checkSet S = s.fenceSet S v := by
  simp only [State.checkSet, hfence, Bool.false_eq_true, if_false, hbad]

variable (hu : s.checkSet w.nextSet = u)
include hu

theorem State.walkVisit_of_next (h : w.nextSet ≠ 4095) : s.walkVisit w = { u.setRetagged w with
    writeBack := { (u.setRetagged w).writeBack with walk := some { w with nextSet := w.nextSet + 1 } } } := by
  have hval : ¬w.nextSet.val = 4095 := fun e => h (Fin.ext e)
  unfold State.walkVisit State.setRetagged
  rw [hu, if_neg hval]

theorem State.walkVisit_of_last (h : w.nextSet = 4095) : s.walkVisit w = ({ u.setRetagged w with
    writeBack := { (u.setRetagged w).writeBack with walk := none } } : State).judgeActivation := by
  have hval : w.nextSet.val = 4095 := congrArg Fin.val h
  unfold State.walkVisit State.setRetagged
  rw [hu, if_pos hval]

theorem State.walkVisit_directory : (s.walkVisit w).directory = (u.setRetagged w).directory := by
  by_cases h : w.nextSet = 4095
  · rw [walkVisit_of_last hu h, State.judgeActivation, (activateLoop_keeps _ _).1]
  · rw [walkVisit_of_next hu h]

theorem State.walkVisit_unclean (e : Epoch) : (s.walkVisit w).unclean e = (u.setRetagged w).unclean e := by
  by_cases h : w.nextSet = 4095
  · rw [walkVisit_of_last hu h, State.judgeActivation, (activateLoop_keeps _ _).2.2]
    cases e <;> rfl
  · rw [walkVisit_of_next hu h]
    cases e <;> rfl

end

theorem State.setRetagged_changesWays (s : State) (w : RetagWalk) :
    s.ChangesWays (s.setRetagged w) w.nextSet fun v => { s.line ⟨w.nextSet, v⟩ with
      state := (s.line ⟨w.nextSet, v⟩).state.retag w.epoch s.writeBack.currentEpoch } := by
  unfold State.setRetagged
  exact (foldl_retagLine w.epoch w.nextSet (List.nodup_finRange 8) s).2.congr fun v => if_pos (List.mem_finRange v)

theorem State.setRetagged_unclean (s : State) (w : RetagWalk) (hne : w.epoch ≠ s.writeBack.currentEpoch) :
    (s.setRetagged w).unclean w.epoch = s.unclean w.epoch -
        (List.finRange 8).countP (fun v => (s.line ⟨w.nextSet, v⟩).state.epoch == some w.epoch) ∧
      (s.setRetagged w).unclean s.writeBack.currentEpoch = s.unclean s.writeBack.currentEpoch +
        (List.finRange 8).countP (fun v => (s.line ⟨w.nextSet, v⟩).state.epoch == some w.epoch) := by
  unfold State.setRetagged
  exact State.foldl_retagLine_unclean w.epoch w.nextSet (List.nodup_finRange 8) s hne

/-- A visit moves as many from the old epoch's count to the current one's as lines of the set are in the old epoch. -/
theorem State.walkVisit_counts {s : State} {w : RetagWalk}
    (hsound : s.isFenced w.nextSet = true ∨ (s.cacheSet w.nextSet).badWay = none)
    (hne : w.epoch ≠ s.writeBack.currentEpoch) :
    (s.walkVisit w).unclean w.epoch = s.unclean w.epoch -
        (List.finRange 8).countP (fun v => (s.line ⟨w.nextSet, v⟩).state.epoch == some w.epoch) ∧
      (s.walkVisit w).unclean s.writeBack.currentEpoch = s.unclean s.writeBack.currentEpoch +
        (List.finRange 8).countP (fun v => (s.line ⟨w.nextSet, v⟩).state.epoch == some w.epoch) := by
  have hunclean := State.walkVisit_unclean (State.checkSet_of_sound hsound)
  obtain ⟨hold, hcurrent⟩ := s.setRetagged_unclean w hne
  exact ⟨(hunclean _).trans hold, (hunclean _).trans hcurrent⟩

theorem exec_retagWalkVisit {s : State} {w : RetagWalk} (h : s.writeBack.walk = some w) :
    exec .retagWalkVisit s = .next (s.walkVisit w).settle := by
  rw [show exec .retagWalkVisit s = execRetagWalkVisit s from rfl, execRetagWalkVisit, h]

/-- Settles O59: a visit after its check, by its lines, its counts and the end of the walk. -/
theorem retagWalkVisitsASet : Obligations.RetagWalkVisitsASet := by
  unfold Obligations.RetagWalkVisitsASet
  refine ⟨fun b e f old now src => ⟨rfl, rfl, rfl, rfl, rfl, rfl⟩, fun s w hwalk => ⟨exec_retagWalkVisit hwalk,
    fun hnext => ?_, fun hlast => ?_, fun hsound => ⟨fun v => ?_, fun S hS => ?_, ?_⟩, fun v hfence hbad => ?_⟩⟩
  · rw [State.walkVisit_of_next rfl hnext]
  · rw [State.walkVisit_of_last rfl hlast, State.judgeActivation, (activateLoop_keeps _ _).2.1]
  · have hdirectory := State.walkVisit_directory (State.checkSet_of_sound hsound)
    rw [State.line_of_directory hdirectory, (s.setRetagged_changesWays w).line]
  · have hdirectory := State.walkVisit_directory (State.checkSet_of_sound hsound)
    rw [State.cacheSet_of_directory hdirectory, (s.setRetagged_changesWays w).other S hS]
  · intro k hne hk
    exact hk ▸ State.walkVisit_counts hsound hne
  · have hfenced : s.checkSet w.nextSet = s.fenceSet w.nextSet v := State.checkSet_of_bad hfence hbad
    have hkept : (s.fenceSet w.nextSet v).checkSet w.nextSet = s.fenceSet w.nextSet v :=
      State.checkSet_of_sound (.inl (s.fenceSet_isFenced w.nextSet v))
    by_cases h : w.nextSet = 4095
    · rw [State.walkVisit_of_last hfenced h, State.walkVisit_of_last hkept h]
    · rw [State.walkVisit_of_next hfenced h, State.walkVisit_of_next hkept h]

end Sys2Proof.Machine
end

section
/-! PROOFS. The issue arbiter (R85 to R88), the draws of cleans (R60, R61) and the lines supplied for them (R59): O55. -/

namespace Sys2Proof.Machine

/-! ### The end of a draw -/

theorem exec_drawCompletes {s : State} {i : SlotId} {m : MediaSlot} (h : s.slotIn i .drawing = some m) :
    exec (.drawCompletes i) s = .next (s.drawEnds i m) := by
  rw [show exec (.drawCompletes i) s = execDrawCompletes i s from rfl, execDrawCompletes, h]

theorem exec_drawCompletes_of_none {s : State} {i : SlotId} (h : s.slotIn i .drawing = none) :
    exec (.drawCompletes i) s = .next s := by
  rw [show exec (.drawCompletes i) s = execDrawCompletes i s from rfl, execDrawCompletes, h]

theorem State.drawEnds_eq {s u : State} {i : SlotId} {m : MediaSlot}
    (hu : u = (s.mediaSend (.writeData i m.attempt (s.frame m.line))).setSlot i
      (some { m with state := .awaiting, timer := some (1000 * m.timeout) })) :
    s.drawEnds i m = (u.releaseRead m.line).1.settleIf (u.releaseRead m.line).2 m.line.set := by
  subst hu
  simp only [State.drawEnds, timerOf]

/-! ### The supplied line -/

theorem Line.ready_iff {ln : Line} : ln.ready = true ↔ ln.state.isDirty = true ∧ ln.exclusive = false := by
  simp [Line.ready]

theorem State.backgroundCleaning_iff {s : State} : s.backgroundCleaning = true ↔
    s.writeBack.pressure = true ∨ s.writeBack.activeFlushAll.isSome = true ∨
      (s.engine.state = .quiescing ∧ s.engine.flushOnQuiesce = true) := by
  simp [State.backgroundCleaning, State.flushMode]

section
variable {s : State} {l : LineId} {pre post : List LineId}

/-- The first of the urgent queue that is ready. -/
theorem State.supply_of_urgent (hqueue : s.writeBack.urgent = pre ++ l :: post)
    (hpre : ∀ x ∈ pre, ¬((s.line x).state.isDirty = true ∧ (s.line x).exclusive = false))
    (hready : (s.line l).state.isDirty = true ∧ (s.line l).exclusive = false) : s.supply = some l := by
  have hfirst : (s.writeBack.urgent.find? fun x => (s.line x).ready) = some l :=
    List.find?_eq_some_iff_append.mpr ⟨Line.ready_iff.mpr hready, pre, post, hqueue, fun x hx => by
      rw [Bool.not_eq_true']
      exact Bool.eq_false_iff.mpr (mt Line.ready_iff.mp (hpre x hx))⟩
  simp only [State.supply, hfirst]

variable (hnone : ∀ x ∈ s.writeBack.urgent, ¬((s.line x).state.isDirty = true ∧ (s.line x).exclusive = false))
include hnone

theorem State.supply_of_not_urgent : s.supply =
    if s.backgroundCleaning then s.writeBack.dirtyOrder.find? fun l => !(s.line l).exclusive else none := by
  have hfind : (s.writeBack.urgent.find? fun x => (s.line x).ready) = none :=
    List.find?_eq_none.mpr fun x hx => mt Line.ready_iff.mp (hnone x hx)
  simp only [State.supply, hfind]

theorem State.supply_of_background (hon : s.backgroundCleaning = true) (horder : s.writeBack.dirtyOrder = pre ++ l :: post)
    (hpre : ∀ x ∈ pre, (s.line x).exclusive = true) (hfree : (s.line l).exclusive = false) : s.supply = some l := by
  rw [State.supply_of_not_urgent hnone, if_pos hon]
  exact List.find?_eq_some_iff_append.mpr ⟨by rw [hfree]; rfl, pre, post, horder, fun x hx => by rw [hpre x hx]; rfl⟩

theorem State.supply_eq_none
    (h : ¬s.backgroundCleaning = true ∨ ∀ x ∈ s.writeBack.dirtyOrder, (s.line x).exclusive = true) : s.supply = none := by
  rw [State.supply_of_not_urgent hnone]
  rcases h with hoff | hheld
  · exact if_neg hoff
  · split
    · exact List.find?_eq_none.mpr fun x hx => by rw [hheld x hx]; exact Bool.false_ne_true
    · rfl

end

/-! ### One issue -/

theorem firstFree_eq_none {α : Type} {n : Nat} {v : Vector (Option α) n} (h : ∀ i : Fin n, v[i] ≠ none) : firstFree v = none :=
  List.find?_eq_none.mpr fun i _ => by simpa using h i

theorem firstFree_eq_some {α : Type} {n : Nat} {v : Vector (Option α) n} {i : Fin n} (hi : v[i] = none)
    (hlowest : ∀ j, j < i → v[j] ≠ none) : firstFree v = some i :=
  find?_finRange_eq_some (by rw [hi]; rfl) fun j hj => by
    simpa [Option.isSome_iff_ne_none] using hlowest j hj

theorem firstFree_isNone {α : Type} {n : Nat} {v : Vector (Option α) n} {i : Fin n} (h : firstFree v = some i) : v[i] = none := by
  simpa using List.find?_some h

theorem State.cleansInFlight_eq_countP (s : State) :
    s.cleansInFlight = (List.finRange 32).countP fun j => match s.slot j with
      | some m => m.kind == .clean
      | none => false := by
  have hlist : s.media.slots.toList = (List.finRange 32).map s.slot :=
    List.ext_getElem (by simp) fun i _ _ => by simp [State.slot]
  rw [State.cleansInFlight, hlist, List.countP_map]
  rfl

section
variable {s : State}

theorem State.issueOne_of_down (h : s.media.link = .down) : s.issueOne = none := if_pos h

theorem State.issueOne_of_full (h : firstFree s.media.slots = none) : s.issueOne = none := by
  simp only [State.issueOne, h, ite_self]

variable {i : SlotId} (hup : s.media.link = .up) (hfree : firstFree s.media.slots = some i)
include hup hfree

theorem State.issueOne_of_idle (hsupply : s.supply = none) (hqueue : s.media.fillQueue = []) : s.issueOne = none := by
  simp only [State.issueOne, hup, hfree, hsupply, hqueue, reduceCtorEq, if_false]

theorem State.issueOne_fill {f : LineId} {fs : List LineId} (hqueue : s.media.fillQueue = f :: fs)
    (h : s.supply = none ∨ ∃ l, s.supply = some l ∧ 4 ≤ s.cleansInFlight) : s.issueOne = some (s.issueFill i f, none) := by
  rcases h with hsupply | ⟨l, hsupply, hfloor⟩
  · simp only [State.issueOne, hup, hfree, hsupply, hqueue, reduceCtorEq, if_false]
  · simp only [State.issueOne, hup, hfree, hsupply, hqueue, reduceCtorEq, if_false, Config.cleanFloor, Nat.not_lt.mpr hfloor]

theorem State.issueOne_clean {l : LineId} (hsupply : s.supply = some l)
    (h : s.cleansInFlight < 4 ∨ s.cleansInFlight < 16 ∧ s.media.fillQueue = []) :
    s.issueOne = some (s.issueClean i l, some l.set) := by
  by_cases hfloor : s.cleansInFlight < 4
  · simp only [State.issueOne, hup, hfree, hsupply, reduceCtorEq, if_false, Config.cleanFloor, hfloor, if_true]
  · obtain ⟨hceiling, hqueue⟩ := h.resolve_left hfloor
    simp only [State.issueOne, hup, hfree, hsupply, hqueue, reduceCtorEq, if_false, Config.cleanFloor, hfloor,
      Config.cleanCeiling, hceiling, if_true]

theorem State.issueOne_of_ceiling {l : LineId} (hsupply : s.supply = some l) (hceiling : 16 ≤ s.cleansInFlight)
    (hqueue : s.media.fillQueue = []) : s.issueOne = none := by
  have hfloor : ¬s.cleansInFlight < 4 := by omega
  simp only [State.issueOne, hup, hfree, hsupply, hqueue, reduceCtorEq, if_false, Config.cleanFloor, hfloor,
    Config.cleanCeiling, Nat.not_lt.mpr hceiling]

end

/-! ### What an issue is -/

section
variable {s : State} {l : LineId} {b : Nat} (hblock : (s.line l).state.block = some b) (i : SlotId)
include hblock

theorem State.blockOf_eq : s.blockOf l = b := by
  rw [State.blockOf, hblock, Option.getD_some]

theorem State.issueFill_eq : s.issueFill i l =
    (({ s with media := { s.media with fillQueue := s.media.fillQueue.filter (· != l) } } : State).setSlot i (some
      { state := .awaiting, kind := .fill, block := b, line := l, attempt := 0, timeout := s.media.timeout,
        retryLimit := s.media.retryLimit, timer := some (1000 * s.media.timeout), orphan := false })).mediaSend
      (.read (requestHeader .fill i 0 b)) := by
  have hb : State.blockOf { s with media := { s.media with fillQueue := s.media.fillQueue.filter (· != l) } } l = b :=
    State.blockOf_eq hblock
  simp only [State.issueFill, hb, State.freshSlot, timerOf]

theorem State.issueClean_eq {u : State} (hu : u = ((s.setSlot i (some
      { state := .drawing, kind := .clean, block := b, line := l, attempt := 0, timeout := s.media.timeout,
        retryLimit := s.media.retryLimit, timer := none, orphan := false })).mediaSend
      (.writeHeader (requestHeader .clean i 0 b))).beginDraw l) : s.issueClean i l = (u.serve l).1 := by
  subst hu
  simp only [State.issueClean, State.blockOf_eq hblock, State.freshSlot, State.afterChange]

end

/-! ### Draws -/

/-- The line has a reader more and has left both lists (R60 items 2 to 4). -/
def State.drawn (s : State) (l : LineId) : State :=
  ((s.setLine l { s.line l with readers := (s.line l).readers + 1 }).leaveDirty l).unwantClean l

section
variable {s : State} {l : LineId}

theorem State.drawn_changesLine :
    s.ChangesLine (s.drawn l) l { s.line l with readers := (s.line l).readers + 1, cleanWanted := false } := by
  have hheld := ChangesLine.of_setLine s l { s.line l with readers := (s.line l).readers + 1 }
  exact ((hheld.same (State.leaveDirty_directory _ l)).set fun ln => { ln with cleanWanted := false }).same rfl

theorem State.leaveDirty_writeBack_setLine (ln : Line) : ((s.setLine l ln).leaveDirty l).writeBack = (s.leaveDirty l).writeBack := by
  unfold State.leaveDirty
  rw [State.setLine_writeBack]
  split <;> rfl

theorem State.unwantClean_writeBack (s : State) (l : LineId) : (s.unwantClean l).writeBack =
    { s.writeBack with urgent := s.writeBack.urgent.filter (· != l) } := rfl

theorem State.drawn_writeBack : (s.drawn l).writeBack =
    { (s.leaveDirty l).writeBack with urgent := s.writeBack.urgent.filter (· != l) } := by
  have hleft := s.leaveDirty_writeBack_setLine (l := l) { s.line l with readers := (s.line l).readers + 1 }
  have hurgent : (s.leaveDirty l).writeBack.urgent = s.writeBack.urgent := by rw [s.leaveDirty_eq l]
  rw [State.drawn, State.unwantClean_writeBack, hleft, hurgent]

variable {b : Nat} {e : Epoch} (h : (s.line l).state = .dirty b e)
include h

theorem State.beginDraw_eq : s.beginDraw l = ((s.drawn l).setLineState l (.cleaning b e)).promoteWatchers l := by
  have hstate : ((s.drawn l).line l).state = .dirty b e := by rw [State.drawn_changesLine.line, h]
  simp only [State.drawn] at hstate
  simp only [State.beginDraw, hstate, State.drawn]

theorem State.beginDraw_changesLine : s.ChangesLine (s.beginDraw l) l { s.line l with
    state := .cleaning b e, readers := (s.line l).readers + 1, cleanWanted := false,
    watchers := (s.line l).watchers.map fun w => { w with mark := .current } } := by
  rw [State.beginDraw_eq h]
  exact (State.drawn_changesLine.set fun ln => { ln with state := .cleaning b e }).set fun ln =>
    { ln with watchers := ln.watchers.map fun w => { w with mark := .current } }

theorem State.beginDraw_writeBack : (s.beginDraw l).writeBack =
    { (s.leaveDirty l).writeBack with urgent := s.writeBack.urgent.filter (· != l) } := by
  rw [State.beginDraw_eq h, ← State.drawn_writeBack]
  rfl

theorem State.beginDraw_pressure (hmem : l ∈ s.writeBack.dirtyOrder) : (s.beginDraw l).writeBack.pressure =
    if s.writeBack.highMark ≤ (s.beginDraw l).writeBack.dirtyOrder.length then true
    else if (s.beginDraw l).writeBack.dirtyOrder.length ≤ s.writeBack.lowMark then false
    else s.writeBack.pressure := by
  rw [State.beginDraw_writeBack h, State.leaveDirty, if_pos hmem]
  rfl

end

end Sys2Proof.Machine
end

section
/-! PROOFS. A run of the issue arbiter (R86) goes on until nothing can be issued: O55. -/

namespace Sys2Proof.Machine

/-! ### The slots that a request is under way for -/

/-- A request is under way for the slot: it draws or awaits its response. -/
def underWay : Option MediaSlot → Bool
  | some m => m.state == .drawing || m.state == .awaiting
  | none => false

/-- The slots that a request is under way for. -/
def State.requested (s : State) : Finset SlotId := Finset.univ.filter fun i => underWay (s.slot i) = true

theorem State.mem_requested {s : State} {i : SlotId} : i ∈ s.requested ↔ underWay (s.slot i) = true := by
  simp [State.requested]

theorem State.requested_card_le (s : State) : s.requested.card ≤ 32 := by
  simpa using s.requested.card_le_univ

theorem State.requested_of_slot {s t : State} (h : ∀ i, t.slot i = s.slot i) : t.requested = s.requested := by
  ext i
  rw [mem_requested, mem_requested, h]

/-- Lookups, services and passes free no slot that a request is under way for. -/
theorem State.Thins.requested {s t : State} (h : s.Thins t) : s.requested ⊆ t.requested := by
  intro i hi
  rw [mem_requested] at hi ⊢
  obtain hsame | ⟨m, hm, ⟨-, hkept⟩ | ⟨hfreed, -⟩⟩ := h.slot i
  · rwa [hsame]
  · rw [hm] at hi
    rwa [hkept]
  · rw [hm] at hi
    rcases hfreed with hstate | hstate <;> simp [underWay, hstate] at hi

/-- A FREE slot for which a request then is under way joins them. -/
theorem State.requested_of_taken {s t : State} {i : SlotId} {m : MediaSlot} (hfree : s.slot i = none)
    (hm : underWay (some m) = true) (hslot : t.slot i = some m) (hother : ∀ j, j ≠ i → t.slot j = s.slot j) :
    s.requested.card < t.requested.card := by
  refine Finset.card_lt_card ((Finset.ssubset_iff_of_subset fun j hj => ?_).mpr ⟨i, ?_, ?_⟩)
  · have hne : j ≠ i := by
      rintro rfl
      rw [mem_requested, hfree] at hj
      exact absurd hj Bool.false_ne_true
    rwa [mem_requested, hother j hne, ← mem_requested]
  · rwa [mem_requested, hslot]
  · rw [mem_requested, hfree]
    exact Bool.false_ne_true

/-- The state in which slot `i` has been filled and its request has gone onto the link. -/
def State.requesting (s : State) (i : SlotId) (m : MediaSlot) (r : MediaRequest) : State :=
  (s.setSlot i (some m)).mediaSend r

theorem State.requested_requesting {s : State} {i : SlotId} (hfree : s.slot i = none) {m : MediaSlot}
    (hm : underWay (some m) = true) (r : MediaRequest) : s.requested.card < (s.requesting i m r).requested.card :=
  State.requested_of_taken hfree hm (s.slot_setSlot_self i (some m)) fun j hj => s.slot_setSlot_ne i j (some m) hj.symm

theorem State.requested_issueFill {s : State} {i : SlotId} (hfree : s.slot i = none) (l : LineId) :
    s.requested.card < (s.issueFill i l).requested.card := by
  obtain ⟨u, hu, m, hm, r, hissue⟩ : ∃ u : State, (∀ j, u.slot j = s.slot j) ∧ ∃ m, underWay (some m) = true ∧
      ∃ r, s.issueFill i l = u.requesting i m r :=
    ⟨{ s with media := { s.media with fillQueue := s.media.fillQueue.filter (· != l) } }, fun _ => rfl, _, rfl, _, rfl⟩
  rw [hissue, ← State.requested_of_slot hu]
  exact State.requested_requesting ((hu i).trans hfree) hm r

theorem State.requested_issueClean {s : State} {i : SlotId} (hfree : s.slot i = none) (l : LineId) :
    s.requested.card < (s.issueClean i l).requested.card := by
  obtain ⟨m, hm, r, hissue⟩ : ∃ m, underWay (some m) = true ∧
      ∃ r, s.issueClean i l = (((s.requesting i m r).beginDraw l).afterChange l).1 :=
    ⟨s.freshSlot .drawing .clean (s.blockOf l) l 0 none false, rfl, .writeHeader (requestHeader .clean i 0 (s.blockOf l)), rfl⟩
  rw [hissue]
  have hthins := (State.Thins.beginDraw (s.requesting i m r) l).trans (.afterChange _ l)
  exact (State.requested_requesting hfree hm r).trans_le (Finset.card_le_card hthins.requested)

/-- Each issue takes a slot for good. -/
theorem State.requested_issueOne {s t : State} {d : Option SetId} (h : s.issueOne = some (t, d)) :
    s.requested.card < t.requested.card := by
  obtain ⟨i, l, hfree, ⟨hfill, -⟩ | ⟨hclean, -⟩⟩ := State.issueOne_cases h
  · rw [hfill]
    exact State.requested_issueFill (firstFree_isNone hfree) l
  · rw [hclean]
    exact State.requested_issueClean (firstFree_isNone hfree) l

theorem State.issueOne_of_all_requested {s : State} (h : 32 ≤ s.requested.card) : s.issueOne = none := by
  refine Option.eq_none_iff_forall_ne_some.mpr fun r hr => ?_
  have hmore := State.requested_issueOne (s := s) (t := r.1) (d := r.2) hr
  have hle := r.1.requested_card_le
  omega

/-! ### The steps of a run -/

section
variable {s : State} (n : Nat) (passed changed : List SetId)

theorem issueLoop_of_some {t : State} {d : Option SetId} (h : s.judgeFlushAll.issueOne = some (t, d)) :
    issueLoop (n + 1) passed changed s = issueLoop n passed (noteDraw passed d changed) t := by
  simp only [issueLoop, h]

variable (h : s.judgeFlushAll.issueOne = none)
include h

theorem issueLoop_of_idle : issueLoop (n + 1) passed [] s = s.judgeFlushAll := by
  simp only [issueLoop, h, List.isEmpty_nil, if_true]

theorem issueLoop_of_changed {changed : List SetId} (hchanged : changed ≠ []) :
    issueLoop (n + 1) passed changed s = issueLoop n (passed ++ changed) [] (passAll changed s.judgeFlushAll) := by
  simp only [issueLoop, h, List.isEmpty_eq_false_iff.mpr hchanged, Bool.false_eq_true, if_false]

end

theorem State.requested_judgeFlushAll (s : State) : s.judgeFlushAll.requested = s.requested :=
  State.requested_of_slot fun i => by rw [State.slot, s.judgeFlushAll_media, State.slot]

/-- What is left to do of a run: two steps for each slot that an issue can take, and one for passes that are due. -/
def runLeft (changed : List SetId) (s : State) : Nat := 2 * (32 - s.requested.card) + if changed = [] then 0 else 1

/-- A run of as many steps as are left ends when nothing can be issued. -/
theorem issueLoop_issueOne (n : Nat) (passed changed : List SetId) (s : State) (hn : runLeft changed s ≤ n) :
    (issueLoop n passed changed s).issueOne = none := by
  induction n generalizing passed changed s with
  | zero =>
    rw [issueLoop]
    refine State.issueOne_of_all_requested ?_
    rw [State.requested_judgeFlushAll]
    unfold runLeft at hn
    omega
  | succ n ih =>
    have hle := s.requested_card_le
    cases hissue : s.judgeFlushAll.issueOne with
    | some r =>
      obtain ⟨t, d⟩ := r
      rw [issueLoop_of_some n passed changed hissue]
      refine ih _ _ _ ?_
      have hmore := State.requested_issueOne hissue
      rw [State.requested_judgeFlushAll] at hmore
      have hle' := t.requested_card_le
      unfold runLeft at hn ⊢
      split <;> omega
    | none =>
      by_cases hchanged : changed = []
      · subst hchanged
        rw [issueLoop_of_idle n passed hissue, hissue]
      · rw [issueLoop_of_changed n passed hissue hchanged]
        refine ih _ _ _ ?_
        have hkept := Finset.card_le_card (State.Thins.passAll changed s.judgeFlushAll).requested
        rw [State.requested_judgeFlushAll] at hkept
        unfold runLeft at hn ⊢
        rw [if_neg hchanged] at hn
        rw [if_pos rfl]
        omega

theorem State.issueArbiter_issueOne (s : State) (passed : List SetId) : (s.issueArbiter passed).issueOne = none :=
  issueLoop_issueOne 64 passed [] s (by unfold runLeft; rw [if_pos rfl]; omega)

/-! ### The sets that the draws change -/

section
variable {passed changed : List SetId} {S : SetId}

theorem noteDraw_of_noted (h : S ∈ passed ∨ S ∈ changed) : noteDraw passed (some S) changed = changed := by
  unfold noteDraw
  dsimp only
  cases hpassed : passed.contains S with
  | true => rfl
  | false =>
    have hnot : S ∉ passed := fun hS => absurd (List.contains_iff_mem.mpr hS) (by rw [hpassed]; exact Bool.false_ne_true)
    exact noteChange_of_mem (h.resolve_left hnot)

theorem noteDraw_of_new (hpassed : S ∉ passed) (hchanged : S ∉ changed) :
    noteDraw passed (some S) changed = changed ++ [S] := by
  have hcontains : passed.contains S = false := Bool.eq_false_iff.mpr (mt List.contains_iff_mem.mp hpassed)
  unfold noteDraw
  dsimp only
  rw [hcontains]
  exact noteChange_of_not_mem hchanged

end

/-- Settles O55: the end of a draw, one issue by its cases, the supplied line, what an issue and a draw do, and the run's steps and end. -/
theorem drawCompletes : Obligations.DrawCompletes := by
  unfold Obligations.DrawCompletes
  refine ⟨fun s i m hm => ⟨fun hstate u hu => ?_, fun hstate => ?_⟩, ?_, fun s => ⟨fun l pre post hqueue hpre hdirty hfree =>
    State.supply_of_urgent hqueue hpre ⟨hdirty, hfree⟩, fun hnone => ⟨fun l pre post hon horder hpre hfree => ?_, fun h => ?_⟩⟩,
    fun s i l b hblock => ⟨State.issueFill_eq hblock i, fun u hu => State.issueClean_eq hblock i hu⟩, ?_, ?_, ?_⟩
  · rw [exec_drawCompletes (State.slotIn_eq hm hstate), State.drawEnds_eq hu]
  · exact exec_drawCompletes_of_none (State.slotIn_eq_none hm hstate)
  · intro s c hc
    have hcount : c = s.cleansInFlight := hc.trans s.cleansInFlight_eq_countP.symm
    subst hcount
    refine ⟨State.issueOne_of_down, fun hfull => State.issueOne_of_full (firstFree_eq_none hfull), fun i hup hi hlowest => ?_⟩
    have hfree : firstFree s.media.slots = some i := firstFree_eq_some hi hlowest
    exact ⟨State.issueOne_of_idle hup hfree,
      fun f fs hsupply hqueue => State.issueOne_fill hup hfree hqueue (.inl hsupply),
      fun l hsupply hfloor => State.issueOne_clean hup hfree hsupply (.inl hfloor),
      fun l f fs hsupply hfloor hqueue => State.issueOne_fill hup hfree hqueue (.inr ⟨l, hsupply, hfloor⟩),
      fun l hsupply _ hceiling hqueue => State.issueOne_clean hup hfree hsupply (.inr ⟨hceiling, hqueue⟩),
      fun l hsupply hceiling hqueue => State.issueOne_of_ceiling hup hfree hsupply hceiling hqueue⟩
  · exact State.supply_of_background hnone (State.backgroundCleaning_iff.mpr hon) horder hpre hfree
  · exact State.supply_eq_none hnone (h.imp_left (mt State.backgroundCleaning_iff.mp))
  · rintro s t l b e hstate rfl
    have hlines := State.beginDraw_changesLine hstate
    have hwriteBack := State.beginDraw_writeBack hstate
    rw [s.leaveDirty_eq l] at hwriteBack
    refine ⟨hlines.line, fun x hx => hlines.line_ne hx, ?_, ?_, fun f => ?_, State.beginDraw_pressure hstate⟩
    · rw [hwriteBack]
    · rw [hwriteBack]
    · simp only [State.unclean, hwriteBack]
  · intro s t n passed changed d
    exact ⟨rfl, issueLoop_of_some n passed changed, fun h => ⟨issueLoop_of_idle n passed h, issueLoop_of_changed n passed h⟩,
      s.issueArbiter_issueOne passed, rfl, fun S => ⟨noteDraw_of_noted, noteDraw_of_new⟩⟩
  · exact fun s sets changed S => ⟨rfl, rfl, rfl, rfl⟩

end Sys2Proof.Machine
end
